-- ==== Sys2Proof/Word.lean ====
section
/-! DEFINITION. The word types of the HW-7240: bytes of a frame, trunk addresses, load words, 32-bit counters and times. -/

namespace Sys2Proof

/-- One byte of a frame (10.6). -/
abbrev Byte := BitVec 8

/-- A 16-bit trunk address (R2). -/
abbrev Addr := BitVec 16

/-- A 32-bit load word (R3). -/
abbrev Word := BitVec 32

/-- A 32-bit counter that wraps (R2), and the 32-bit time in ds (R61). -/
abbrev Count := BitVec 32

end Sys2Proof
end

