-- ==== Sys2Proof/Syntax.lean ====
section
/-! DEFINITION. The commands of the block: one constructor of `Instr` for each row of
spec/opcode_table.json, in the table's order, each with the operands its rule gives it. -/

namespace Sys2Proof

/-- The two trunk ports (00_scope, "The Part on the Trunk"). -/
inductive Port where
  | c
  | f
  deriving DecidableEq, Repr

/-- A valid trunk frame less its frame check, which is a function of the rest (R174). -/
structure Frame where
  dst : Addr
  src : Addr
  kind : Byte
  payload : List Byte
  deriving DecidableEq, Repr

/-- What a cold reset meets at the pins and the ports: the strap pins' value (R21), and whether a frame was in
progress at the C port and at the F port (R174, log entry 13). -/
structure ColdStart where
  strap : BitVec 4
  cutC : Bool
  cutF : Bool
  deriving DecidableEq, Repr

/-- What a RESET request brings after its tag, and whether a further frame was in progress at the C port and at the
F port (R174, log entry 13). -/
structure ResetBody where
  fields : List Byte
  cutC : Bool
  cutF : Bool
  deriving DecidableEq, Repr

/-- One step of the part. The operands of a received frame are its header addresses and payload
bytes; those of a management request are its source, its tag and its bytes from payload position 3
on (10.6, "MREQ and MRSP payloads"). -/
inductive Instr where
  /-- R21: the reset pin or power-on, with the strap pins' value, and whether a frame was in progress at
  the C port and at the F port (R174). -/
  | coldReset (start : ColdStart)
  /-- R174: the bytes of a frame that fails a receive check. -/
  | droppedFrame (port : Port) (bytes : List Byte)
  /-- R176: a valid AIM at the C port. -/
  | aim (dst src : Addr) (payload : List Byte)
  /-- R178: a valid STATE at the F port. -/
  | state (dst src : Addr) (payload : List Byte)
  /-- R179: a valid frame of any other kind. -/
  | forwardedFrame (port : Port) (frame : Frame)
  /-- R176 row 3: an MREQ to 0xFFFF at the C port. -/
  | mreqDroppedBroadcast (src : Addr) (payload : List Byte)
  /-- R178: an MREQ at the F port addressed to the part or to broadcast. -/
  | mreqDroppedAtF (dst src : Addr) (payload : List Byte)
  /-- R184: an MREQ to the part with a payload shorter than 3 bytes. -/
  | mreqMalformed (src : Addr) (payload : List Byte)
  | status (src : Addr) (tag : BitVec 16) (fields : List Byte)
  | errorRead (src : Addr) (tag : BitVec 16) (fields : List Byte)
  | moveRead (src : Addr) (tag : BitVec 16) (fields : List Byte)
  | snapshot (src : Addr) (tag : BitVec 16) (fields : List Byte)
  | snapshotRead (src : Addr) (tag : BitVec 16) (fields : List Byte)
  | loadBegin (src : Addr) (tag : BitVec 16) (fields : List Byte)
  | loadData (src : Addr) (tag : BitVec 16) (fields : List Byte)
  | loadEnd (src : Addr) (tag : BitVec 16) (fields : List Byte)
  | loadAbort (src : Addr) (tag : BitVec 16) (fields : List Byte)
  | engage (src : Addr) (tag : BitVec 16) (fields : List Byte)
  | disengage (src : Addr) (tag : BitVec 16) (fields : List Byte)
  | hold (src : Addr) (tag : BitVec 16) (fields : List Byte)
  | release (src : Addr) (tag : BitVec 16) (fields : List Byte)
  /-- R198: a CLEAR whose clear kind (payload byte 3) is not 1. -/
  | clearStickyFlags (src : Addr) (tag : BitVec 16) (fields : List Byte)
  /-- R198, R116: a CLEAR whose clear kind is 1. -/
  | clearSuspectCondition (src : Addr) (tag : BitVec 16) (fields : List Byte)
  /-- R199: with whether a further frame was in progress at the C port and at the F port (R174). -/
  | reset (src : Addr) (tag : BitVec 16) (body : ResetBody)
  /-- R181: the frame being sent at a port has left it. -/
  | frameSent (port : Port)
  | forwardEntryHandover
  | stepRelease
  | burstStart
  | roundStart
  | answerHandover
  | opening
  | holdUntilReached (row : Nat)
  | rowCycleElapsed (row : Nat)
  | holdUntilAgeBound (row : Nat)
  | lastOpeningAgeBound (row : Nat)
  | windowEntryExpiry
  | freshnessExpiry
  | gustTimerExpiry
  | excursionExpiry
  | graceExpiry (row : Nat)
  | settleExpiry (row : Nat)
  | stepTimeout (turbine : Nat)
  | lockExpiry (turbine : Nat)
  | realignExpiry (row : Nat)
  | roundTimerExpiry (row : Nat)
  | switchLimitExpiry
  | silenceExpiry
  | loadIdleTimeout
  | scrub
  /-- R185 check 1: an MREQ to the part whose request kind is outside the fifteen codes. -/
  | unknownRequestKind (kind : Byte) (src : Addr) (tag : BitVec 16) (fields : List Byte)
  deriving DecidableEq, Repr

end Sys2Proof
end

