-- ==== Sys2Proof/Decode.lean ====
section
/-! DEFINITION. The words of commands. Every row of spec/opcode_table.json has an empty list of fields and no
fixed bits, so no word spells a command. -/

namespace Sys2Proof

/-- The command a word of `nbits` bits spells by the table's bits: none, for the table gives none. -/
def decodeTableWord (_nbits _w : Nat) : Option Instr := none

end Sys2Proof
end

