-- ==== Sys2Proof/Config.lean ====
section
/-! DEFINITION. What the manual leaves free and no command decides. -/

namespace Sys2Proof

/-- Which of several enabled steps of the part itself is taken next, as a function of how many such
choices were made before. The manual says that either may be taken (R52, R66, R180); nothing is
known of this value (log entry 2). -/
opaque Config.pick : Nat → Nat

end Sys2Proof
end

