-- ==== Sys2Proof/Machine/State.lean ====
section
/-! DEFINITION. The state of the HW-7240: every record, list, timer, counter and flag the manual gives the
eight blocks (INVENTORY.md, "State"), as plain data, and the machine right after a cold reset. -/

namespace Sys2Proof.Machine

/-- A sparse table keyed by a number. An unlisted key holds the table's default value (the contents
after a cold reset). Its canonical form is `Store.wf` (Machine/Ops.lean). -/
abbrev Store (α : Type) := List (Nat × α)

/-- A timer of R1, in ds. `running 0` has reached zero and waits for its expiry to be taken;
`frozen` holds its remaining time (R72, R102). -/
inductive Timer where
  | stopped
  | running (left : Nat)
  | frozen (left : Nat)
  deriving DecidableEq, Repr

/-! ### Trunk Interface (chapter 10) -/

/-- The two sources of an output (R181). -/
inductive Source where
  | through
  | insertion
  deriving DecidableEq, Repr

/-- Whose frame an insertion-queue place holds (R180). A forwarded AIM is `trailing` when it was
appended or replaced by R54 (R182, "AIMs forwarded through"). -/
inductive Origin where
  | step
  | affirm
  | forwarded (trailing : Bool)
  | response
  | alert
  deriving DecidableEq, Repr

/-- A frame in an insertion queue. -/
structure QFrame where
  frame : Frame
  origin : Origin
  deriving DecidableEq, Repr

/-- One trunk port: its counters (R182), the through buffer and the insertion queue of its output
(R179, R180), the source whose oldest frame is being sent, and the source served last (R181). -/
structure PortState where
  received : Count
  droppedBad : Count
  droppedLong : Count
  droppedOverflow : Count
  forwarded : Count
  inserted : Count
  through : List Frame
  insertion : List QFrame
  sending : Option Source
  servedLast : Source
  deriving DecidableEq, Repr

/-- Trunk Interface. -/
structure Ti where
  strap : BitVec 4
  c : PortState
  f : PortState
  aimsDiverted : Count
  aimsForwardedThrough : Count
  aimsMalformed : Count
  stateMalformed : Count
  mreqsDroppedAtF : Count
  mreqsDroppedBroadcast : Count
  deriving DecidableEq, Repr

/-! ### Wind Reference Unit (chapter 2) -/

/-- Wind Reference Unit. The smoothed values, fresh, and gust pause are read off these
(Machine/Flags.lean). -/
structure Wru where
  seeded : Bool
  speedAcc : Nat
  dirAcc : Nat
  freshness : Timer
  gust : Timer
  excursion : Timer
  activeSector : Option Nat
  planMissing : Bool
  deriving DecidableEq, Repr

/-! ### Move Store (chapter 3) -/

/-- Step mode of an AIM (R40). -/
inductive StepMode where
  | full
  | chop
  deriving DecidableEq, Repr

/-- Queue class (R40). -/
inductive Urgency where
  | normal
  | urgent
  deriving DecidableEq, Repr

/-- Phase of a move (R40). -/
inductive MovePhase where
  | queued
  | burst
  deriving DecidableEq, Repr

/-- The faults of R49. -/
inductive MoveFault where
  | stepTimeout
  | mismatch
  | turbineFault
  | lockLimit
  | lateConfirm
  | affirmMismatch
  deriving DecidableEq, Repr

/-- The six fields an AIM brings (R44, R46), in range. -/
structure Setpoint where
  dst : Addr
  src : Addr
  tag : BitVec 16
  target : Int
  mode : StepMode
  urgency : Urgency
  deriving DecidableEq, Repr

/-- A move record (R40); its turbine number is the key of its slot. -/
structure Move where
  sp : Setpoint
  arrival : Count
  phase : MovePhase
  resumed : Bool
  firstFault : Option MoveFault
  deriving DecidableEq, Repr

/-- An entry of the forward list (R52). -/
structure FwdEntry where
  sp : Setpoint
  trailing : Bool
  deriving DecidableEq, Repr

/-- Move Store. `created` is at once the arrival counter of R41 and the moves-created count. -/
structure Ms where
  slots : Store (Option Move)
  queues : List (List Nat)
  forward : List FwdEntry
  inFlight : List Addr
  created : Count
  done : Count
  forwarded : Count
  discarded : Count
  supersedes : Count
  aimClamps : Count
  forwardDropped : Count
  deriving DecidableEq, Repr

/-! ### Row Sequencer (chapters 4 and 7) -/

/-- Row states (R62). -/
inductive RowState where
  | closed
  | affirming
  | opened
  | draining
  | settling
  | fenced
  deriving DecidableEq, Repr

/-- A row record (R61). The startable and burst counts are RSQ's copies of figures that MS and SE
hold; they are read from there (`startableCount`, `burstCount`). -/
structure RowRec where
  state : RowState
  grace : Timer
  settle : Timer
  lastOpening : Option Count
  holdUntil : Count
  moved : Bool
  deriving DecidableEq, Repr

/-- A pending switch (R137). -/
structure SwitchRec where
  target : Nat
  limit : Timer
  retargeted : Bool
  deriving DecidableEq, Repr

/-- Row Sequencer. -/
structure Rsq where
  activePage : Option Nat
  rows : List RowRec
  window : List Count
  switch : Option SwitchRec
  switchesBegun : Count
  retargets : Count
  cancellations : Count
  switchesTaken : Count
  switchesForced : Count
  deriving DecidableEq, Repr

/-! ### Step Engine (chapter 5) -/

/-- Condition of a turbine (R91). -/
inductive Condition where
  | unseen
  | normal
  | suspect
  | fenced
  deriving DecidableEq, Repr

/-- Yaw status of a STATE (10.6). -/
inductive YawStatus where
  | ready
  | moving
  | locked
  | fault
  deriving DecidableEq, Repr

/-- A turbine state record (R91). -/
structure TurbineRec where
  released : Int
  confirmed : Int
  cond : Condition
  yaw : Option YawStatus
  misses : Nat
  nextSeq : BitVec 4
  abandoned : List (BitVec 4)
  deriving DecidableEq, Repr

/-- The record after a reset and at ENGAGE (R117, R119). -/
def TurbineRec.cold : TurbineRec :=
  { released := 0, confirmed := 0, cond := .unseen, yaw := none, misses := 0, nextSeq := 0,
    abandoned := [] }

/-- An outstanding step (R97). -/
structure Step where
  seq : BitVec 4
  commanded : Int
  timeout : Nat
  timer : Timer
  deriving DecidableEq, Repr

/-- Phase of a burst (R97). -/
inductive BurstPhase where
  | running
  | paused
  | ending
  deriving DecidableEq, Repr

/-- A burst record in use (R97). -/
structure Burst where
  turbine : Nat
  row : Nat
  phase : BurstPhase
  gust : Bool
  lock : Bool
  lockTimer : Timer
  lockReached : Bool
  steps : List Step
  deriving DecidableEq, Repr

/-- Step Engine. The burst table lists the records in use, by turbine number. -/
structure Se where
  turbines : Store TurbineRec
  bursts : List Burst
  stepsReleased : Count
  stepsConfirmed : Count
  stepTimeouts : Count
  mismatches : Count
  lateConfirms : Count
  deriving DecidableEq, Repr

/-! ### Realign Unit (chapter 6) -/

/-- Kinds of an affirm round (R125). -/
inductive RoundKind where
  | exit
  | owed
  | pullIn
  | hold
  deriving DecidableEq, Repr

/-- Status of a round's entry (R126, R128). -/
inductive EntryStatus where
  | pending
  | confirmed
  | mismatched
  deriving DecidableEq, Repr

/-- One member of a round (R126). -/
structure RoundEntry where
  turbine : Nat
  sent : Int
  status : EntryStatus
  deriving DecidableEq, Repr

/-- A round record (R126); its row is the place of the realign record that holds it. -/
structure Round where
  kind : RoundKind
  number : BitVec 8
  timer : Timer
  entries : List RoundEntry
  deriving DecidableEq, Repr

/-- A realign record (R120). -/
structure RealignRec where
  timer : Timer
  pendingReload : Option Nat
  credit : Int
  exitDue : Bool
  holdDues : Nat
  overrunAlerted : Bool
  round : Option Round
  deriving DecidableEq, Repr

/-- Realign Unit. -/
structure Rau where
  records : List RealignRec
  roundNumber : BitVec 8
  roundsStarted : Count
  roundsCompleted : Count
  affirmsSent : Count
  affirmConfirms : Count
  affirmMismatches : Count
  affirmMisses : Count
  overruns : Count
  deriving DecidableEq, Repr

/-! ### Table Memory (chapters 1 and 9) -/

/-- Reasons of INVALID (R18). -/
inductive Reason where
  | neverLoaded
  | loadFailed
  | checkFailed
  | integrity
  deriving DecidableEq, Repr

/-- Validity state of a table; ACTIVE is a page's only (R18, R19). -/
inductive Validity where
  | invalid (reason : Reason)
  | loading
  | valid
  | active
  deriving DecidableEq, Repr

/-- The tables of R3. -/
inductive Table where
  | config
  | turbine
  | page (n : Nat)
  | sectorMap
  deriving DecidableEq, Repr

/-- Who reads a word (R163). -/
inductive Reader where
  | ti
  | wru
  | ms
  | rsq
  | se
  | rau
  | ma
  | check
  | scrub
  deriving DecidableEq, Repr

/-- The entry a fault record names (R165). -/
inductive Entry where
  | field (n : Nat)
  | turbine (n : Nat)
  | header
  | row (n : Nat)
  | sectors (first : Nat)
  deriving DecidableEq, Repr

/-- Table, entry and table word index of a word (R164, R165). -/
structure FaultSite where
  table : Table
  entry : Entry
  word : Nat
  deriving DecidableEq, Repr

/-- The capture record (R165). -/
structure Capture where
  site : FaultSite
  reader : Reader
  deriving DecidableEq, Repr

/-- One stored word: 32-bit value and 7-bit check code (R3). -/
structure TmWord where
  value : Word
  code : BitVec 7
  deriving DecidableEq, Repr

/-- Table Memory: the 1956 words by TM address, the validity states, the pending sector-map entry
(sector, entry byte; R17) and the integrity state (R173). -/
structure Tm where
  words : Store TmWord
  config : Validity
  turbine : Validity
  pages : Store Validity
  pendingEntry : Option (Nat × Byte)
  correctable : Nat
  lastCorrectable : Option FaultSite
  uncorrectable : Nat
  capture : Option Capture
  captureFrozen : Bool
  fences : Store Bool
  scrubPointer : Nat
  scrubTimer : Timer
  deriving DecidableEq, Repr

/-! ### Management Agent (chapters 8 and 11) -/

/-- The part's modes (R149). -/
inductive Mode where
  | through
  | engaged
  | hold
  deriving DecidableEq, Repr

/-- What put the part in HOLD (R149). -/
inductive HoldCause where
  | command
  | silence
  deriving DecidableEq, Repr

/-- Why the part last went to THROUGH (R149). -/
inductive ReleaseCause where
  | disengage
  | integrity
  | loadFailed
  | revalidation
  deriving DecidableEq, Repr

/-- First errors of a load (R189, R195). -/
inductive LoadError where
  | sequence
  | overrun
  | timeout
  | short
  | crc
  | aborted
  deriving DecidableEq, Repr

/-- The last load outcome (R195). -/
inductive LoadOutcome where
  | valid (clamped : Nat)
  | checkFailed (clamped : Nat)
  | integrity (clamped : Nat)
  | failed (error : LoadError)
  deriving DecidableEq, Repr

/-- The load context (R189). `ended` holds the first error of an ENDED context; `mapClamped` is the
count of sector-map entries stored as NONE that R16 hands to MA at LOAD-END. -/
structure LoadCtx where
  table : Table
  first : Nat
  count : Nat
  received : Nat
  expectedSeq : BitVec 8
  crc : BitVec 16
  idle : Timer
  ended : Option LoadError
  mapClamped : Nat
  deriving DecidableEq, Repr

/-- A snapshot latch (R196); its row is the key it is stored under. -/
structure Latch where
  time : Count
  state : RowState
  remaining : Nat
  toHoldUntil : Count
  queueLength : Nat
  startable : Nat
  bursts : Nat
  moved : Bool
  credit : Int
  realignLeft : Nat
  reloadPending : Bool
  deriving DecidableEq, Repr

/-- A waiting answer: its destination and the payloads of its MRSP parts (R184). -/
structure Answer where
  dst : Addr
  parts : List (List Byte)
  deriving DecidableEq, Repr

/-- Management Agent: the mode record of R149, then chapter 11's state. -/
structure Ma where
  mode : Mode
  holdCause : Option HoldCause
  exitDeferred : Bool
  silence : Timer
  lastRelease : Option ReleaseCause
  holdsByCommand : Count
  holdsBySilence : Count
  releases : Count
  answers : List Answer
  requestsDropped : Count
  requestsMalformed : Count
  load : Option LoadCtx
  lastLoad : Option (Table × LoadOutcome)
  latches : Store (Option Latch)
  sticky : BitVec 16
  alertSeq : BitVec 8
  droppedAlerts : Count
  deriving DecidableEq, Repr

/-! ### The whole part -/

/-- Everything but the queue of commands. `releaseDue` is the model's own: a release that a table
fault or a failed load has handed MA within the event being carried out, and that MA carries out
at the end of that event; it is `none` between events (log entry 5). So is `startsDue`: a burst record has
freed, or a gust pause has ended, within the event being carried out, and SE's arbiter has still to test for
burst starts (R98, R99; log entry 11); it is `false` between events. -/
structure Part where
  now : Count
  ti : Ti
  wru : Wru
  ms : Ms
  rsq : Rsq
  se : Se
  rau : Rau
  tm : Tm
  ma : Ma
  releaseDue : Option ReleaseCause
  startsDue : Bool
  deriving DecidableEq, Repr

/-- The machine: the part, the queue of waiting commands (first in, first out), and the model's own
count of free choices made on an empty queue (log entry 2). -/
structure State where
  part : Part
  pending : List Instr
  turns : Nat
  deriving DecidableEq, Repr

/-- The reasons a command can stop the machine with a fault: none. Every command of the table has an
effect the manual states for every operand and state, so no arm raises a fault (safe: nothing is
cut off). -/
inductive Fault where
  deriving DecidableEq, Repr

/-- The reasons a command can be refused. -/
inductive Refusal where
  /-- Raised by an arm of `exec` whose command has no meaning yet (safe: the machine stops). No arm
  raises it now. -/
  | notModelled (mnemonic : String)
  deriving DecidableEq, Repr

/-! ### Reset (R21, R38, R60, R89, R119, R135, R137, R162, R173, R183, R201) -/

/-- A port after a cold reset (R183). -/
def PortState.cold : PortState :=
  { received := 0, droppedBad := 0, droppedLong := 0, droppedOverflow := 0, forwarded := 0,
    inserted := 0, through := [], insertion := [], sending := none, servedLast := .insertion }

/-- R183. -/
def Ti.cold (strap : BitVec 4) : Ti :=
  { strap := strap, c := .cold, f := .cold, aimsDiverted := 0, aimsForwardedThrough := 0,
    aimsMalformed := 0, stateMalformed := 0, mreqsDroppedAtF := 0, mreqsDroppedBroadcast := 0 }

/-- R38. -/
def Wru.cold : Wru :=
  { seeded := false, speedAcc := 0, dirAcc := 0, freshness := .stopped, gust := .stopped,
    excursion := .stopped, activeSector := none, planMissing := false }

/-- R60. -/
def Ms.cold : Ms :=
  { slots := [], queues := [], forward := [], inFlight := [], created := 0, done := 0,
    forwarded := 0, discarded := 0, supersedes := 0, aimClamps := 0, forwardDropped := 0 }

/-- R89, R137. -/
def Rsq.cold : Rsq :=
  { activePage := none, rows := [], window := [], switch := none, switchesBegun := 0,
    retargets := 0, cancellations := 0, switchesTaken := 0, switchesForced := 0 }

/-- R119. -/
def Se.cold : Se :=
  { turbines := [], bursts := [], stepsReleased := 0, stepsConfirmed := 0, stepTimeouts := 0,
    mismatches := 0, lateConfirms := 0 }

/-- R135. -/
def Rau.cold : Rau :=
  { records := [], roundNumber := 0, roundsStarted := 0, roundsCompleted := 0, affirmsSent := 0,
    affirmConfirms := 0, affirmMismatches := 0, affirmMisses := 0, overruns := 0 }

/-- R21, R173. Every word holds its reset contents (`resetWord`), so none is listed. -/
def Tm.cold : Tm :=
  { words := [], config := .invalid .neverLoaded, turbine := .invalid .neverLoaded, pages := [],
    pendingEntry := none, correctable := 0, lastCorrectable := none, uncorrectable := 0,
    capture := none, captureFrozen := false, fences := [], scrubPointer := 0,
    scrubTimer := .running 10 }

/-- R162, R201. -/
def Ma.cold : Ma :=
  { mode := .through, holdCause := none, exitDeferred := false, silence := .stopped,
    lastRelease := none, holdsByCommand := 0, holdsBySilence := 0, releases := 0, answers := [],
    requestsDropped := 0, requestsMalformed := 0, load := none, lastLoad := none, latches := [],
    sticky := 0, alertSeq := 0, droppedAlerts := 0 }

/-- The part after a cold reset with the strap pins at `strap`; the time counts from it (R61). -/
def Part.cold (strap : BitVec 4) : Part :=
  { now := 0, ti := .cold strap, wru := .cold, ms := .cold, rsq := .cold, se := .cold, rau := .cold,
    tm := .cold, ma := .cold, releaseDue := none, startsDue := false }

/-- The machine right after a cold reset, with an empty queue. The straps are pins; 0 is the
model's choice (log entry 3). -/
def State.reset : State :=
  { part := .cold 0, pending := [], turns := 0 }

end Sys2Proof.Machine
end

