-- ==== Sys2Proof/Machine/Ops.lean ====
section
/-! DEFINITION. The shared operations below the blocks: sparse tables, timers, comparison of times, byte order
and CRC, the checked storage of a word, the ports' buffers and arbiters, and the raising of an alert. -/

namespace Sys2Proof.Machine

/-! ### Updates of one block -/

def Part.onTi (p : Part) (g : Ti → Ti) : Part := { p with ti := g p.ti }
def Part.onWru (p : Part) (g : Wru → Wru) : Part := { p with wru := g p.wru }
def Part.onMs (p : Part) (g : Ms → Ms) : Part := { p with ms := g p.ms }
def Part.onRsq (p : Part) (g : Rsq → Rsq) : Part := { p with rsq := g p.rsq }
def Part.onSe (p : Part) (g : Se → Se) : Part := { p with se := g p.se }
def Part.onRau (p : Part) (g : Rau → Rau) : Part := { p with rau := g p.rau }
def Part.onTm (p : Part) (g : Tm → Tm) : Part := { p with tm := g p.tm }
def Part.onMa (p : Part) (g : Ma → Ma) : Part := { p with ma := g p.ma }

/-- A command whose effect is `g` on everything but the queue. -/
def State.does (s : State) (g : Part → Part) : Host.Outcome State Fault Refusal :=
  .next { s with part := g s.part }

/-! ### Sparse tables -/

/-- The value under key `k`; `d` gives what an unlisted key holds. -/
def Store.get {α : Type} (d : Nat → α) : Store α → Nat → α
  | [], k => d k
  | (j, v) :: m, k => if k = j then v else Store.get d m k

/-- The table without key `k`. -/
def Store.drop {α : Type} : Store α → Nat → Store α
  | [], _ => []
  | (j, v) :: m, k => if k = j then Store.drop m k else (j, v) :: Store.drop m k

/-- Adds a pair at its place in rising key order. -/
def Store.insert {α : Type} (k : Nat) (v : α) : Store α → Store α
  | [] => [(k, v)]
  | (j, w) :: m => if k < j then (k, v) :: (j, w) :: m else (j, w) :: Store.insert k v m

/-- Writes `v` under `k`, keeping the canonical form: a default value is not listed. -/
def Store.put {α : Type} [DecidableEq α] (d : Nat → α) (m : Store α) (k : Nat) (v : α) : Store α :=
  if v = d k then Store.drop m k else Store.insert k v (Store.drop m k)

/-- The canonical form: keys strictly rising, no default value listed. -/
def Store.wf {α : Type} [DecidableEq α] (d : Nat → α) : Store α → Bool
  | [] => true
  | (k, v) :: m => decide (v ≠ d k) && m.all (fun e => decide (k < e.1)) && Store.wf d m

/-- Puts `n` into a list in ascending order. -/
def insertAscending (n : Nat) : List Nat → List Nat
  | [] => [n]
  | m :: l => if n ≤ m then n :: m :: l else m :: insertAscending n l

/-- A list of numbers in ascending order. -/
def ascending : List Nat → List Nat
  | [] => []
  | n :: l => insertAscending n (ascending l)

/-! ### Timers (R1) and times (R41, R61) -/

/-- The timer runs (it may be due). -/
def Timer.isRunning : Timer → Bool
  | .running _ => true
  | _ => false

/-- R1: the timer has reached zero, so its expiry may be taken. -/
def Timer.isDue : Timer → Bool
  | .running 0 => true
  | _ => false

/-- The remaining time, 0 when stopped. -/
def Timer.left : Timer → Nat
  | .stopped => 0
  | .running n => n
  | .frozen n => n

def Timer.isFrozen : Timer → Bool
  | .frozen _ => true
  | _ => false

/-- R72, R102: a running timer stops counting and holds its remaining time. -/
def Timer.freeze : Timer → Timer
  | .running n => .frozen n
  | t => t

/-- R72, R102: a frozen timer runs on from its held time. -/
def Timer.thaw : Timer → Timer
  | .frozen n => .running n
  | t => t

/-- One decisecond of a timer. -/
def Timer.tick : Timer → Timer
  | .running n => .running (n - 1)
  | t => t

/-- R41, R61: `a` comes before `b` on the wrapping 32-bit scale. Equal values are not earlier: a row
opens at the moment the time reaches its hold-until (log entry 7). -/
def earlier (a b : Count) : Bool := decide (a ≠ b) && decide ((b - a).toNat < 2147483648)

/-- The later of two times (R77). -/
def laterTime (a b : Count) : Count := if earlier a b then b else a

/-! ### Arithmetic (00_scope, "Arithmetic") -/

def clampNat (lo hi n : Nat) : Nat := if n < lo then lo else if hi < n then hi else n

def clampInt (lo hi n : Int) : Int := if n < lo then lo else if hi < n then hi else n

def ceilDiv (n d : Nat) : Nat := (n + (d - 1)) / d

/-- Yaw offsets lie within −300..+300. -/
def clampOffset (n : Int) : Int := clampInt (-300) 300 n

/-! ### Bytes, most significant first (10.6) -/

def be16 (n : BitVec 16) : List Byte := [n.extractLsb' 8 8, n.extractLsb' 0 8]

def be24 (n : BitVec 24) : List Byte := [n.extractLsb' 16 8, n.extractLsb' 8 8, n.extractLsb' 0 8]

def be32 (n : BitVec 32) : List Byte :=
  [n.extractLsb' 24 8, n.extractLsb' 16 8, n.extractLsb' 8 8, n.extractLsb' 0 8]

/-- Byte `i` of a payload; 0 past its end. -/
def byteAt (l : List Byte) (i : Nat) : Byte := l.getD i 0

def pairAt (l : List Byte) (i : Nat) : BitVec 16 := byteAt l i ++ byteAt l (i + 1)

/-- The 32-bit words of a byte list, most significant byte first; an odd end is left out. -/
def wordsOf : List Byte → List Word
  | a :: b :: c :: d :: rest => (a ++ b ++ c ++ d) :: wordsOf rest
  | _ => []

/-! ### CRC-16 with polynomial x¹⁶ + x¹² + x⁵ + 1, most significant bit first (R174, R189) -/

def crcBit (c : BitVec 16) : BitVec 16 :=
  if c.getLsbD 15 then (c <<< 1) ^^^ 0x1021#16 else c <<< 1

def crcByte (c : BitVec 16) (b : Byte) : BitVec 16 :=
  let x := c ^^^ (b ++ 0#8)
  crcBit (crcBit (crcBit (crcBit (crcBit (crcBit (crcBit (crcBit x)))))))

def crc16 (start : BitVec 16) (bytes : List Byte) : BitVec 16 := bytes.foldl crcByte start

/-! ### Frames on the trunk (R174, 10.6) -/

/-- Header and payload. -/
def frameBody (f : Frame) : List Byte :=
  be16 f.dst ++ be16 f.src ++ [f.kind, BitVec.ofNat 8 f.payload.length] ++ f.payload

/-- The bytes of a frame, with its frame check (initial value all ones, high byte first). -/
def frameBytes (f : Frame) : List Byte := frameBody f ++ be16 (crc16 0xFFFF#16 (frameBody f))

/-- The outcome of the receive checks (R174). -/
inductive RxVerdict where
  | bad
  | long
  | valid (f : Frame)
  deriving DecidableEq, Repr

/-- R174: length agreement, frame check, payload limit, in this order. -/
def receiveCheck (bytes : List Byte) : RxVerdict :=
  let len := (byteAt bytes 5).toNat
  let body := bytes.take (6 + len)
  if bytes.length < 8 ∨ bytes.length ≠ 8 + len then .bad
  else if crc16 0xFFFF#16 body ≠ pairAt bytes (6 + len) then .bad
  else if 200 < len then .long
  else .valid { dst := pairAt bytes 0, src := pairAt bytes 2, kind := byteAt bytes 4,
                payload := (bytes.drop 6).take len }

/-! Kind codes (10.6). -/

def kindAim : Byte := 0x21#8
def kindStep : Byte := 0x22#8
def kindAffirm : Byte := 0x23#8
def kindState : Byte := 0x31#8
def kindMreq : Byte := 0x41#8
def kindMrsp : Byte := 0x42#8
def kindAlert : Byte := 0x43#8

/-- R2: broadcast. -/
def broadcast : Addr := 0xFFFF#16

/-- R2, R175: 0x7F00 plus the sampled strap value. -/
def ownAddress (p : Part) : Addr := 0x7F00#16 + p.ti.strap.setWidth 16

/-! ### Check code of a word (R3, R163)

The manual gives the width of the code and what it must tell apart, not the code. The model takes a
code of seven parities in which the 39 single-bit changes have 39 different syndromes and no two
changes look like one (log entry 4). -/

/-- The parities each data bit takes part in, data bit 0 first: 32 patterns of three bits. -/
def codeColumns : List (BitVec 7) :=
  [0x07, 0x0B, 0x13, 0x23, 0x43, 0x0D, 0x15, 0x25, 0x45, 0x19, 0x29, 0x49, 0x31, 0x51, 0x61, 0x0E] ++
  [0x16, 0x26, 0x46, 0x1A, 0x2A, 0x4A, 0x32, 0x52, 0x62, 0x1C, 0x2C, 0x4C, 0x34, 0x54, 0x64, 0x38]

def codeFrom : List (BitVec 7) → Nat → Word → BitVec 7
  | [], _, _ => 0
  | c :: cs, i, v => (if v.getLsbD i then c else 0) ^^^ codeFrom cs (i + 1) v

/-- The 7-bit check code of a value. -/
def checkCode (v : Word) : BitVec 7 := codeFrom codeColumns 0 v

/-- A word written with a fresh code (R163). -/
def freshWord (v : Word) : TmWord := { value := v, code := checkCode v }

/-- The outcome of a read's check (R163). -/
inductive Checked where
  | clean (v : Word)
  | corrected (v : Word)
  | damaged
  deriving DecidableEq, Repr

/-- The data bit whose change gives this syndrome. -/
def columnIndex : List (BitVec 7) → Nat → BitVec 7 → Option Nat
  | [], _, _ => none
  | c :: cs, i, syn => if c = syn then some i else columnIndex cs (i + 1) syn

/-- R163: clean, explained by one changed stored bit among the 39, or neither. -/
def checkWord (w : TmWord) : Checked :=
  let syn := w.code ^^^ checkCode w.value
  if syn = 0 then .clean w.value
  else if syn ∈ [1#7, 2#7, 4#7, 8#7, 16#7, 32#7, 64#7] then .corrected w.value
  else match columnIndex codeColumns 0 syn with
    | some i => .corrected (w.value ^^^ (1#32 <<< i))
    | none => .damaged

/-! ### Table Memory layout (R3) and reset contents (R5, R21) -/

/-- The cold-reset default of config field `f` (R5). -/
def fieldDefault : Nat → Nat
  | 0 => 2 | 1 => 6 | 2 => 6000 | 3 => 4 | 4 => 1200 | 5 => 205 | 6 => 40 | 7 => 600
  | 8 => 50 | 9 => 1800 | 14 => 300 | 15 => 100 | 16 => 6000 | 17 => 300 | 18 => 100 | 19 => 5
  | 20 => 1200 | 21 => 1800 | 22 => 0 | 23 => 10
  | _ => 0

/-- What TM address `a` holds after a cold reset: the defaults, zeros, and NONE in the sector map. -/
def resetValue (a : Nat) : Word :=
  if a < 24 then BitVec.ofNat 32 (fieldDefault a)
  else if a < 1952 then 0#32
  else 0xFFFFFFFF#32

def resetWord (a : Nat) : TmWord := freshWord (resetValue a)

/-- TM address of the first word of a table. -/
def tableBase : Table → Nat
  | .config => 0
  | .turbine => 24
  | .page n => 408 + 193 * n
  | .sectorMap => 1952

/-- Number of words of a table. -/
def tableSize : Table → Nat
  | .config => 24
  | .turbine => 384
  | .page _ => 193
  | .sectorMap => 4

/-- TM address of word 2t of turbine number `t` (entry t − 1): present flag and ring address. -/
def turbineWordA (t : Nat) : Nat := 24 + 2 * (t - 1)

/-- TM address of word 2t + 1 of turbine number `t`: bypass flag and yaw rate. -/
def turbineWordB (t : Nat) : Nat := 24 + 2 * (t - 1) + 1

def pageWordAddr (n w : Nat) : Nat := 408 + 193 * n + w

/-- The table and table word index of a TM address. -/
def placeOf (a : Nat) : Table × Nat :=
  if a < 24 then (.config, a)
  else if a < 408 then (.turbine, a - 24)
  else if a < 1952 then (.page ((a - 408) / 193), (a - 408) % 193)
  else (.sectorMap, a - 1952)

/-- The entry recorded for a word (R165). -/
def entryOf : Table → Nat → Entry
  | .config, w => .field w
  | .turbine, w => .turbine (w / 2 + 1)
  | .page _, w => if w = 0 then .header else .row ((w - 1) / 8)
  | .sectorMap, w => .sectors (4 * w)

def siteOf (a : Nat) : FaultSite :=
  let pl := placeOf a
  { table := pl.1, entry := entryOf pl.1 pl.2, word := pl.2 }

/-- The stored word at a TM address. -/
def wordAt (p : Part) (a : Nat) : TmWord := Store.get resetWord p.tm.words a

/-- R163: writes a value with a fresh code. -/
def writeWord (a : Nat) (v : Word) (p : Part) : Part :=
  p.onTm fun m => { m with words := Store.put resetWord m.words a (freshWord v) }

/-! ### Validity states (R18, R19) -/

def neverLoaded : Nat → Validity := fun _ => .invalid .neverLoaded

def pageValidity (p : Part) (n : Nat) : Validity := Store.get neverLoaded p.tm.pages n

def setPageValidity (n : Nat) (v : Validity) (p : Part) : Part :=
  p.onTm fun m => { m with pages := Store.put neverLoaded m.pages n v }

def setConfigValidity (v : Validity) (p : Part) : Part := p.onTm fun m => { m with config := v }

def setTurbineValidity (v : Validity) (p : Part) : Part := p.onTm fun m => { m with turbine := v }

/-- MA is handed the release of the part; the first cause of an event stands (log entry 5). -/
def requestRelease (c : ReleaseCause) (p : Part) : Part :=
  if p.ma.mode = .through then p
  else match p.releaseDue with
    | some _ => p
    | none => { p with releaseDue := some c }

/-! ### Fence marks (R167) -/

def fenceMark (p : Part) (t : Nat) : Bool := Store.get (fun _ => false) p.tm.fences t

def setFenceMark (t : Nat) (p : Part) : Part :=
  p.onTm fun m => { m with fences := Store.put (fun _ => false) m.fences t true }

/-! ### Slots, turbine records and bursts -/

def slot (p : Part) (t : Nat) : Option Move := Store.get (fun _ => none) p.ms.slots t

def setSlot (t : Nat) (m : Option Move) (p : Part) : Part :=
  p.onMs fun s => { s with slots := Store.put (fun _ => none) s.slots t m }

def turbineRec (p : Part) (t : Nat) : TurbineRec := Store.get (fun _ => .cold) p.se.turbines t

def setTurbine (t : Nat) (r : TurbineRec) (p : Part) : Part :=
  p.onSe fun s => { s with turbines := Store.put (fun _ => .cold) s.turbines t r }

def modifyTurbine (t : Nat) (g : TurbineRec → TurbineRec) (p : Part) : Part :=
  setTurbine t (g (turbineRec p t)) p

def burstOf (p : Part) (t : Nat) : Option Burst := p.se.bursts.find? (fun b => b.turbine == t)

def modifyBurst (t : Nat) (g : Burst → Burst) (p : Part) : Part :=
  p.onSe fun s => { s with bursts := s.bursts.map fun b => if b.turbine = t then g b else b }

/-- The burst record of turbine `t` frees, and SE's arbiter is due (R98, R99). -/
def dropBurst (t : Nat) (p : Part) : Part :=
  { p with se := { p.se with bursts := p.se.bursts.filter fun b => b.turbine != t }, startsDue := true }

/-- Adds a burst record, keeping the table in ascending turbine number. -/
def insertBurst (b : Burst) : List Burst → List Burst
  | [] => [b]
  | c :: l => if b.turbine ≤ c.turbine then b :: c :: l else c :: insertBurst b l

def addBurst (b : Burst) (p : Part) : Part :=
  p.onSe fun s => { s with bursts := insertBurst b s.bursts }

/-- The turbines with a burst, in ascending number. -/
def burstTurbines (p : Part) : List Nat := ascending (p.se.bursts.map (·.turbine))

/-- The occupied slots' turbine numbers, in ascending order. -/
def liveTurbines (p : Part) : List Nat := ascending (p.ms.slots.map (·.1))

/-! ### Rows -/

def rowAt (p : Part) (r : Nat) : Option RowRec := p.rsq.rows[r]?

def modifyRow (r : Nat) (g : RowRec → RowRec) (p : Part) : Part :=
  p.onRsq fun q => { q with rows := q.rows.modify r g }

def rowIs (p : Part) (r : Nat) (st : RowState) : Bool :=
  match rowAt p r with
  | some row => decide (row.state = st)
  | none => false

def setRowState (r : Nat) (st : RowState) (p : Part) : Part :=
  modifyRow r (fun row => { row with state := st }) p

def rowIndices (p : Part) : List Nat := List.range p.rsq.rows.length

def queueAt (p : Part) (r : Nat) : List Nat := p.ms.queues.getD r []

def modifyQueue (r : Nat) (g : List Nat → List Nat) (p : Part) : Part :=
  p.onMs fun m => { m with queues := m.queues.modify r g }

def realignAt (p : Part) (r : Nat) : Option RealignRec := p.rau.records[r]?

def modifyRealign (r : Nat) (g : RealignRec → RealignRec) (p : Part) : Part :=
  p.onRau fun u => { u with records := u.records.modify r g }

/-! ### Port outputs (R179 to R181) -/

/-- R181: a free output with a frame waiting chooses its next source and records it. It does so as each frame reaches
a source, so a frame that comes later in the same event always meets the choice already made (log entry 62). -/
def chooseSource (ps : PortState) : PortState :=
  match ps.sending with
  | some _ => ps
  | none =>
    match ps.through, ps.insertion with
    | [], [] => ps
    | _ :: _, [] => { ps with sending := some .through, servedLast := .through }
    | [], _ :: _ => { ps with sending := some .insertion, servedLast := .insertion }
    | _ :: _, _ :: _ =>
      match ps.servedLast with
      | .through => { ps with sending := some .insertion, servedLast := .insertion }
      | .insertion => { ps with sending := some .through, servedLast := .through }

def portOf (p : Part) : Port → PortState
  | .c => p.ti.c
  | .f => p.ti.f

def onPort (port : Port) (g : PortState → PortState) (p : Part) : Part :=
  match port with
  | .c => p.onTi fun t => { t with c := g t.c }
  | .f => p.onTi fun t => { t with f := g t.f }

def otherPort : Port → Port
  | .c => .f
  | .f => .c

/-- R179: appends a frame received at `from_` to the through buffer of the other port, or drops it
for overflow. A free output chooses at once (log entry 62). -/
def forwardFrame (from_ : Port) (f : Frame) (p : Part) : Part :=
  if (portOf p (otherPort from_)).through.length < 64 then
    onPort (otherPort from_) (fun ps => chooseSource { ps with through := ps.through ++ [f] }) p
  else
    onPort from_ (fun ps => { ps with droppedOverflow := ps.droppedOverflow + 1 }) p

/-- R180: places of an insertion queue: 32 F-bound, 8 C-bound. -/
def queuePlaces : Port → Nat
  | .c => 8
  | .f => 32

def freePlaces (p : Part) (port : Port) : Nat := queuePlaces port - (portOf p port).insertion.length

/-- R180: hands a frame to an insertion queue; the caller has found a free place. A free output chooses at once (log
entry 62). -/
def insertFrame (port : Port) (q : QFrame) (p : Part) : Part :=
  onPort port (fun ps => chooseSource { ps with insertion := ps.insertion ++ [q] }) p

/-! ### Alerts (R200) -/

/-- Alert kinds (10.6). -/
inductive AlertKind where
  | moveFault | suspect | rowFenced | turbineFenced | uncorrectable
  | wear | sectorChange | switchTaken | switchForced | planMissing
  | holdEntered | holdLeft | releasedToThrough | windStale | realignOverrun
  deriving DecidableEq, Repr

def AlertKind.code : AlertKind → Nat
  | .moveFault => 1 | .suspect => 2 | .rowFenced => 3 | .turbineFenced => 4 | .uncorrectable => 5
  | .wear => 6 | .sectorChange => 7 | .switchTaken => 8 | .switchForced => 9 | .planMissing => 10
  | .holdEntered => 11 | .holdLeft => 12 | .releasedToThrough => 13 | .windStale => 14
  | .realignOverrun => 15

/-- Subjects of an alert (10.6). -/
inductive Subject where
  | nothing
  | turbine (n : Nat)
  | row (n : Nat)
  | page (n : Nat)
  | sector (n : Nat)
  | cause (c : HoldCause)
  deriving DecidableEq, Repr

def holdCauseCode : HoldCause → Nat
  | .command => 1
  | .silence => 2

/-- Subject type and subject bytes. -/
def Subject.bytes : Subject → List Byte
  | .nothing => [0#8, 0#8]
  | .turbine n => [1#8, BitVec.ofNat 8 n]
  | .row n => [2#8, BitVec.ofNat 8 n]
  | .page n => [3#8, BitVec.ofNat 8 n]
  | .sector n => [4#8, BitVec.ofNat 8 n]
  | .cause c => [5#8, BitVec.ofNat 8 (holdCauseCode c)]

/-- The ALERT frame of a kind, subject and sequence. -/
def alertFrame (own : Addr) (k : AlertKind) (subj : Subject) (seq : BitVec 8) : Frame :=
  { dst := broadcast, src := own, kind := kindAlert,
    payload := [BitVec.ofNat 8 k.code] ++ subj.bytes ++ [seq, 0#8] }

/-- R200 steps 1 and 2: the sequence advances and the kind's sticky flag is set. -/
def stampAlert (k : AlertKind) (p : Part) : Part :=
  p.onMa fun m => { m with alertSeq := m.alertSeq + 1,
                           sticky := m.sticky ||| (1#16 <<< k.code) }

/-- R200: stamps an alert, then sends its frame, or drops and counts it when the C-bound insertion
queue is full. -/
def raiseAlert (k : AlertKind) (subj : Subject) (p : Part) : Part :=
  let p := stampAlert k p
  if 0 < freePlaces p .c then
    insertFrame .c { frame := alertFrame (ownAddress p) k subj p.ma.alertSeq, origin := .alert } p
  else
    p.onMa fun m => { m with droppedAlerts := m.droppedAlerts + 1 }

end Sys2Proof.Machine
end

