-- ==== Sys2Proof/Machine/Operands.lean ====
section
/-! DEFINITION. The operand forms: AIM and STATE payloads (10.6), config fields as delivered and as clamped (R4,
R5, R6), the fields of the load words of every table (10.6), and the frames the part builds. -/

namespace Sys2Proof.Machine

/-! ### Config fields (R5) -/

namespace Field
def maxOpenRows : Nat := 0
def burstCap : Nat := 1
def windowLength : Nat := 2
def windowLimit : Nat := 3
def rowCycle : Nat := 4
def advection : Nat := 5
def gustMargin : Nat := 6
def gustHold : Nat := 7
def sectorHysteresis : Nat := 8
def sectorDwell : Nat := 9
def refTurbine1 : Nat := 10
def refSilence : Nat := 14
def ctrlSilence : Nat := 15
def realignInterval : Nat := 16
def affirmLimit : Nat := 17
def stepMargin : Nat := 18
def tolerance : Nat := 19
def lockLimit : Nat := 20
def switchLimit : Nat := 21
def wearThreshold : Nat := 22
def scrubInterval : Nat := 23
end Field

/-- Lower and upper bound of a field (R5); the RefTurbine fields and CtrlSilence have their gap in
`clampField`. -/
def fieldRange : Nat → Nat × Nat
  | 0 => (1, 8) | 1 => (1, 16) | 2 => (600, 36000) | 3 => (1, 16) | 4 => (0, 6000)
  | 5 => (128, 256) | 6 => (10, 100) | 7 => (100, 6000) | 8 => (0, 100) | 9 => (100, 18000)
  | 10 => (0, 192) | 11 => (0, 192) | 12 => (0, 192) | 13 => (0, 192)
  | 14 => (50, 1200) | 15 => (10, 600) | 16 => (600, 36000) | 17 => (50, 600) | 18 => (0, 600)
  | 19 => (1, 20) | 20 => (50, 6000) | 21 => (100, 6000) | 22 => (0, 65535) | 23 => (1, 100)
  | _ => (0, 0)

/-- R6, and R4's clamp on delivery: the nearer bound; 0 stays 0 in CtrlSilence. -/
def clampField (f v : Nat) : Nat :=
  if f = 15 ∧ v = 0 then 0 else clampNat (fieldRange f).1 (fieldRange f).2 v

/-! ### Turbine entry (R8, 10.6) -/

def presentOf (w : Word) : Bool := w.getLsbD 31
def ringOf (w : Word) : Addr := w.extractLsb' 0 16
def bypassOf (w : Word) : Bool := w.getLsbD 31
def rawYawRate (w : Word) : Nat := (w.extractLsb' 0 8).toNat
def yawRateOf (w : Word) : Nat := clampNat 10 100 (rawYawRate w)

/-- The word with its yaw rate replaced (R9). -/
def withYawRate (w : Word) (y : Nat) : Word := (w.extractLsb' 8 24) ++ BitVec.ofNat 8 y

/-! ### Page words (R11, 10.6) -/

/-- Byte `i` of a word, 0 the most significant. -/
def wordByte (w : Word) (i : Nat) : Byte := w.extractLsb' (24 - 8 * i) 8

def wordLow (w : Word) : Nat := (w.extractLsb' 0 16).toNat
def wordHigh (w : Word) : Nat := (w.extractLsb' 16 16).toNat

def rawMemberCount (w : Word) : Nat := (wordByte w 0).toNat
def rawFeederCount (w : Word) : Nat := (wordByte w 1).toNat
def memberCountOf (w : Word) : Nat := clampNat 1 16 (rawMemberCount w)
def feederCountOf (w : Word) : Nat := clampNat 0 2 (rawFeederCount w)
def rowCapOf (w : Word) : Nat := clampNat 1 8 (wordLow w)

/-- The four turbine numbers of a member word. -/
def rawMembers (w : Word) : List Nat :=
  [(wordByte w 0).toNat, (wordByte w 1).toNat, (wordByte w 2).toNat, (wordByte w 3).toNat]

def membersOf (w : Word) : List Nat := (rawMembers w).map (clampNat 1 192)

def rawFeederIndex (w : Word) : Nat := (wordByte w 0).toNat
def feederIndexOf (w : Word) : Nat := clampNat 0 23 (rawFeederIndex w)
def spacingOf (w : Word) : Nat := clampNat 50 5000 (wordLow w)
def graceOf (w : Word) : Nat := clampNat 10 6000 (wordHigh w)
def settleOf (w : Word) : Nat := clampNat 0 6000 (wordLow w)
def rowCountOf (w : Word) : Nat := clampNat 1 24 w.toNat

def withLow (w : Word) (n : Nat) : Word := (w.extractLsb' 16 16) ++ BitVec.ofNat 16 n
def withHigh (w : Word) (n : Nat) : Word := BitVec.ofNat 16 n ++ (w.extractLsb' 0 16)

/-- Page word `k` of row `r`'s record (R3). -/
def rowWord (r k : Nat) : Nat := 1 + 8 * r + k

/-! ### Sector map (R16, 10.6) -/

/-- The byte of NONE. -/
def entryNone : Byte := 0xFF#8

def allNone : Word := 0xFFFFFFFF#32

/-- The page an entry byte names. -/
def entryPage (b : Byte) : Option Nat := if b.toNat ≤ 7 then some b.toNat else none

/-- A byte as it is stored: one that names neither a page nor NONE is stored as NONE. -/
def storedEntry (b : Byte) : Byte := if b.toNat ≤ 7 then b else entryNone

/-- R16: the byte counts as clamped. -/
def entryClamped (b : Byte) : Bool := decide (storedEntry b ≠ b)

/-- The word with entry `i` (0..3) replaced. -/
def withEntry (w : Word) (i : Nat) (b : Byte) : Word :=
  match i with
  | 0 => b ++ (w.extractLsb' 0 24)
  | 1 => (w.extractLsb' 24 8) ++ b ++ (w.extractLsb' 0 16)
  | 2 => (w.extractLsb' 16 16) ++ b ++ (w.extractLsb' 0 8)
  | _ => (w.extractLsb' 8 24) ++ b

/-! ### AIM (R44, 10.6) -/

/-- The fields of an AIM as received; bytes beyond the sixth are ignored (R177). -/
structure RawAim where
  dst : Addr
  src : Addr
  tag : BitVec 16
  target : Int
  mode : Byte
  urgency : Byte
  deriving DecidableEq, Repr

def rawAim (f : Frame) : RawAim :=
  { dst := f.dst, src := f.src, tag := pairAt f.payload 0, target := (pairAt f.payload 2).toInt,
    mode := byteAt f.payload 4, urgency := byteAt f.payload 5 }

def modeOf (b : Byte) : StepMode := if b = 1#8 then .chop else .full

def urgencyOf (b : Byte) : Urgency := if b = 1#8 then .urgent else .normal

/-- R44: the fields brought into range. -/
def setpointOf (a : RawAim) : Setpoint :=
  { dst := a.dst, src := a.src, tag := a.tag, target := clampOffset a.target, mode := modeOf a.mode,
    urgency := urgencyOf a.urgency }

/-- R44: some field was replaced. -/
def aimReplaced (a : RawAim) : Bool :=
  decide (clampOffset a.target ≠ a.target) || decide (1 < a.mode.toNat) || decide (1 < a.urgency.toNat)

def modeCode : StepMode → Byte
  | .full => 0#8
  | .chop => 1#8

def urgencyCode : Urgency → Byte
  | .normal => 0#8
  | .urgent => 1#8

def offsetBytes (n : Int) : List Byte := be16 (BitVec.ofInt 16 n)

/-- R52: the AIM frame of a forward-list entry. -/
def aimFrame (sp : Setpoint) : Frame :=
  { dst := sp.dst, src := sp.src, kind := kindAim,
    payload := be16 sp.tag ++ offsetBytes sp.target ++ [modeCode sp.mode, urgencyCode sp.urgency] }

/-- R101: a STEP frame. -/
def stepFrame (own dst : Addr) (tag : BitVec 16) (seq : BitVec 4) (commanded : Int) (m : StepMode) :
    Frame :=
  { dst := dst, src := own, kind := kindStep,
    payload := be16 tag ++ [seq.setWidth 8] ++ offsetBytes commanded ++ [modeCode m] }

/-- R127: an AFFIRM frame. -/
def affirmFrame (own dst : Addr) (number : BitVec 8) (sent : Int) : Frame :=
  { dst := dst, src := own, kind := kindAffirm, payload := number :: offsetBytes sent }

/-! ### STATE (R24, R178, 10.6) -/

/-- The fields of a well-formed STATE; the applied offset is clamped as SE and RAU clamp it. -/
structure Report where
  speed : Nat
  direction : Nat
  applied : Int
  seq : Option (BitVec 4)
  round : Option Byte
  yaw : YawStatus
  deriving DecidableEq, Repr

def yawOf (b : Byte) : Option YawStatus :=
  match b.toNat with
  | 0 => some .ready
  | 1 => some .moving
  | 2 => some .locked
  | 3 => some .fault
  | _ => none

/-- R178: a STATE payload is well formed. -/
def stateWellFormed (l : List Byte) : Bool :=
  decide (10 ≤ l.length) && decide ((byteAt l 6).toNat < 4) && (yawOf (byteAt l 9)).isSome &&
    (!(byteAt l 6).getLsbD 0 || decide ((byteAt l 7).toNat < 16))

def reportOf (l : List Byte) : Report :=
  { speed := (pairAt l 0).toNat, direction := (pairAt l 2).toNat,
    applied := clampOffset (pairAt l 4).toInt,
    seq := if (byteAt l 6).getLsbD 0 then some ((byteAt l 7).setWidth 4) else none,
    round := if (byteAt l 6).getLsbD 1 then some (byteAt l 8) else none,
    yaw := (yawOf (byteAt l 9)).getD .ready }

/-- R24: speed 0..400 and direction 0..3599 (the invalid marker 0xFFFF lies outside both). -/
def usableReport (r : Report) : Bool := decide (r.speed ≤ 400) && decide (r.direction ≤ 3599)

end Sys2Proof.Machine
end

