-- ==== Sys2Proof/Machine/Flags.lean ====
section
/-! DEFINITION. The conditions and figures read off the state: smoothed wind, fresh and gust flags, mode tests,
startable and burst counts, the open count, opening permission, the quiet farm. -/

namespace Sys2Proof.Machine

/-! ### Wind (chapter 2) -/

/-- R26: the smoothed speed, absent while unseeded (R28). -/
def smoothedSpeed (w : Wru) : Option Nat := if w.seeded then some ((w.speedAcc + 8) / 16) else none

/-- R27: the smoothed direction, absent while unseeded (R28). -/
def smoothedDirection (w : Wru) : Option Nat :=
  if w.seeded then some (((w.dirAcc + 8) / 16) % 3600) else none

/-- R29: fresh while the freshness timer runs. -/
def windFresh (p : Part) : Bool := p.wru.freshness.isRunning

/-- R30: a gust pause is in force while the gust timer runs. -/
def gustPause (p : Part) : Bool := p.wru.gust.isRunning

/-- The part is ENGAGED or HOLD. -/
def sequencing (p : Part) : Bool := decide (p.ma.mode ≠ .through)

/-- R23: WRU runs in ENGAGED and HOLD, and in THROUGH while the config block is VALID. -/
def wruRuns (p : Part) : Bool := sequencing p || decide (p.tm.config = .valid)

/-! ### Turbines, queues, bursts -/

def condOf (p : Part) (t : Nat) : Condition := (turbineRec p t).cond

/-- R43: a queue entry is startable when its turbine is NORMAL. -/
def startableTurbine (p : Part) (t : Nat) : Bool := decide (condOf p t = .normal)

/-- R43: the startable count of row `r`. -/
def startableCount (p : Part) (r : Nat) : Nat := ((queueAt p r).filter (startableTurbine p)).length

/-- R43: the head startable entry. -/
def headStartable (p : Part) (r : Nat) : Option Nat := (queueAt p r).find? (startableTurbine p)

/-- R61: the burst records of row `r`. -/
def burstCount (p : Part) (r : Nat) : Nat := (p.se.bursts.filter fun b => b.row == r).length

/-- R61: rows OPEN or DRAINING. -/
def openCount (p : Part) : Nat :=
  (p.rsq.rows.filter fun row => decide (row.state = .opened) || decide (row.state = .draining)).length

/-- R125: no row is OPEN or DRAINING and no burst record is in use. -/
def farmQuiet (p : Part) : Bool := decide (openCount p = 0) && p.se.bursts.isEmpty

/-- R124: RAU's opening permission for row `r`. -/
def permission (p : Part) (r : Nat) : Bool :=
  match realignAt p r with
  | some u => decide (u.credit < 4) && !u.exitDue
  | none => false

/-- R143: every row of the ACTIVE page is CLOSED or FENCED. -/
def rowsAtRest (p : Part) : Bool :=
  p.rsq.rows.all fun row => decide (row.state = .closed) || decide (row.state = .fenced)

/-- R157: a CONFIG or TURBINE load is LOADING. -/
def loadHoldsMode (p : Part) : Bool :=
  decide (p.tm.config = .loading) || decide (p.tm.turbine = .loading)

/-- R101: a RUNNING burst with room in its window, short of its target, and a free place. -/
def canRelease (p : Part) (t : Nat) : Bool :=
  match burstOf p t, slot p t with
  | some b, some m =>
    decide (b.phase = .running) && decide (b.steps.length < 2) &&
      decide ((turbineRec p t).released ≠ m.sp.target) && decide (0 < freePlaces p .f)
  | _, _ => false

end Sys2Proof.Machine
end

