-- ==== Sys2Proof/Machine/MoveStore.lean ====
section
/-! DEFINITION. The Move Store's own operations (chapter 3): queue order, faults, done, requeue, forwarding,
creating and superseding a move. -/

namespace Sys2Proof.Machine

/-! ### Row queues (R42) -/

/-- R42: URGENT before NORMAL, then by arrival number as R41 compares them. -/
def moveBefore (a b : Move) : Bool :=
  match a.sp.urgency, b.sp.urgency with
  | .urgent, .normal => true
  | .normal, .urgent => false
  | _, _ => earlier a.arrival b.arrival

/-- The move of turbine `a` comes before that of turbine `b`. -/
def turbineBefore (p : Part) (a b : Nat) : Bool :=
  match slot p a, slot p b with
  | some m, some n => moveBefore m n
  | _, _ => false

def insertByOrder (before : Nat → Nat → Bool) (t : Nat) : List Nat → List Nat
  | [] => [t]
  | u :: q => if before t u then t :: u :: q else u :: insertByOrder before t q

/-- R42: the entry of turbine `t` joins row `r`'s queue at its place. -/
def enqueue (t r : Nat) (p : Part) : Part :=
  modifyQueue r (insertByOrder (turbineBefore p) t) p

/-- The entry of turbine `t` leaves the queue it stands in. -/
def dequeue (t : Nat) (p : Part) : Part :=
  p.onMs fun m => { m with queues := m.queues.map fun q => q.filter fun u => u != t }

/-- A queue with the entry of turbine `t`, if it stands there, at its place anew. -/
def reorderEntry (before : Nat → Nat → Bool) (t : Nat) (q : List Nat) : List Nat :=
  if q.contains t then insertByOrder before t (q.filter fun u => u != t) else q

/-- The entry of turbine `t` takes its place anew in the queue it stands in (R46). -/
def replaceInQueue (t : Nat) (p : Part) : Part :=
  p.onMs fun m => { m with queues := m.queues.map (reorderEntry (turbineBefore p) t) }

def modifyMove (t : Nat) (g : Move → Move) (p : Part) : Part :=
  match slot p t with
  | some m => setSlot t (some (g m)) p
  | none => p

/-! ### Faults and completion -/

/-- R49: the first fault of a live move is recorded, with a MOVE-FAULT alert. -/
def recordFault (t : Nat) (fault : MoveFault) (p : Part) : Part :=
  match slot p t with
  | none => p
  | some m =>
    match m.firstFault with
    | some _ => p
    | none =>
      raiseAlert .moveFault (.turbine t) (setSlot t (some { m with firstFault := some fault }) p)

/-- R51: the move is done: it leaves its queue, its slot is emptied, moves done gains one. -/
def finishMove (t : Nat) (p : Part) : Part :=
  (setSlot t none (dequeue t p)).onMs fun m => { m with done := m.done + 1 }

/-- R50: a QUEUED move whose target equals the changed released offset is done. -/
def offsetChanged (t : Nat) (p : Part) : Part :=
  match slot p t with
  | some m =>
    if m.phase = .queued ∧ m.sp.target = (turbineRec p t).released then finishMove t p else p
  | none => p

/-- R48, verdict requeue: a move in BURST becomes QUEUED and resumed and joins row `r`'s queue. -/
def requeueMove (t r : Nat) (p : Part) : Part :=
  match slot p t with
  | some m =>
    if m.phase = .burst then
      enqueue t r (setSlot t (some { m with phase := .queued, resumed := true }) p)
    else p
  | none => p

/-! ### The forward list (R52 to R54) -/

def forwardListHas (p : Part) (dst : Addr) : Bool := p.ms.forward.any fun e => e.sp.dst == dst

/-- R52: appends an entry; a full list first drops its oldest entry unsent. -/
def appendForward (e : FwdEntry) (p : Part) : Part :=
  p.onMs fun m =>
    if m.forward.length < 192 then { m with forward := m.forward ++ [e] }
    else { m with forward := m.forward.drop 1 ++ [e], forwardDropped := m.forwardDropped + 1 }

/-- R53, R54: an entry for the same destination takes the new fields and keeps its place. -/
def replaceForward (e : FwdEntry) (p : Part) : Part :=
  p.onMs fun m => { m with forward := m.forward.map fun x => if x.sp.dst = e.sp.dst then e else x }

def putForward (e : FwdEntry) (p : Part) : Part :=
  if forwardListHas p e.sp.dst then replaceForward e p else appendForward e p

/-- R54: the entry for a destination is removed. -/
def removeForward (dst : Addr) (p : Part) : Part :=
  p.onMs fun m => { m with forward := m.forward.filter fun e => e.sp.dst != dst }

/-- R53: a live move leaves its slot for the forward list. -/
def forwardMove (t : Nat) (p : Part) : Part :=
  match slot p t with
  | none => p
  | some m =>
    (setSlot t none (dequeue t (putForward { sp := m.sp, trailing := false } p))).onMs
      fun s => { s with forwarded := s.forwarded + 1 }

/-- Forwards the moves of the listed turbines, in list order. -/
def forwardMoves (ts : List Nat) (p : Part) : Part := ts.foldl (fun p t => forwardMove t p) p

/-! ### Creating and superseding (R45, R46) -/

/-- R45: creates a move for a turbine whose slot is empty; for a NORMAL or SUSPECT turbine already
at its target the move is done at once. -/
def createMove (t r : Nat) (sp : Setpoint) (p : Part) : Part :=
  let p := p.onMs fun m => { m with created := m.created + 1 }
  let m : Move := { sp := sp, arrival := p.ms.created, phase := .queued, resumed := false,
                    firstFault := none }
  if (condOf p t = .normal ∨ condOf p t = .suspect) ∧ sp.target = (turbineRec p t).released then
    p.onMs fun s => { s with done := s.done + 1 }
  else
    enqueue t r (setSlot t (some m) p)

/-- R46: an AIM supersedes a QUEUED move. -/
def supersedeQueued (t : Nat) (m : Move) (sp : Setpoint) (p : Part) : Part :=
  let p := setSlot t (some { m with sp := sp }) p
  let p := p.onMs fun s => { s with supersedes := s.supersedes + 1 }
  if (condOf p t = .normal ∨ condOf p t = .suspect) ∧ sp.target = (turbineRec p t).released then
    finishMove t p
  else replaceInQueue t p

end Sys2Proof.Machine
end

