-- ==== Sys2Proof/Machine/Bursts.lean ====
section
/-! DEFINITION. The Step Engine's operations on bursts that read no table (chapter 5): suspects, abandoned
sequences, resolution, abandoning, ending, pauses; and the drain of a row. -/

namespace Sys2Proof.Machine

/-- R92: a NORMAL turbine becomes SUSPECT, with a SUSPECT alert. -/
def makeSuspect (t : Nat) (p : Part) : Part :=
  if condOf p t = .normal then
    raiseAlert .suspect (.turbine t) (modifyTurbine t (fun r => { r with cond := .suspect }) p)
  else p

/-- R96: appends a sequence; of three, the oldest is dropped. -/
def pushAbandoned (l : List (BitVec 4)) (n : BitVec 4) : List (BitVec 4) :=
  let l := l.filter (· != n) ++ [n]
  l.drop (l.length - 2)

def abandonSeqs (l : List (BitVec 4)) (steps : List Step) : List (BitVec 4) :=
  steps.foldl (fun l s => pushAbandoned l s.seq) l

/-- R102: the list's oldest step has its timer loaded, frozen while LOCK is set; only a stopped
timer is loaded. -/
def armOldest (lock : Bool) : List Step → List Step
  | [] => []
  | s :: rest =>
    match s.timer with
    | .stopped => { s with timer := if lock then .frozen s.timeout else .running s.timeout } :: rest
    | _ => s :: rest

def mapOldestTimer (g : Timer → Timer) : List Step → List Step
  | [] => []
  | s :: rest => { s with timer := g s.timer } :: rest

/-- R114: the burst's record frees and its verdict is handed to MS. RSQ's test of the new burst count (R73) and
SE's arbiter, which follow within the event, are `settleStarts` (Machine/Reports.lean). -/
def resolveBurst (t : Nat) (p : Part) : Part :=
  match burstOf p t, slot p t with
  | some b, some m =>
    if (turbineRec p t).released = m.sp.target ∧ b.lockReached = false then
      finishMove t (dropBurst t p)
    else requeueMove t b.row (dropBurst t p)
  | _, _ => dropBurst t p

/-- R114: a burst with no outstanding step resolves when its turbine stands at the target, or when
it is ENDING. -/
def resolveIfDone (t : Nat) (p : Part) : Part :=
  match burstOf p t, slot p t with
  | some b, some m =>
    if b.steps.isEmpty = true ∧ ((turbineRec p t).released = m.sp.target ∨ b.phase = .ending) then
      resolveBurst t p
    else p
  | _, _ => p

/-- R115: the burst is given up with its steps in flight; the fault and the verdict requeue go to
MS. -/
def abandonBurst (t : Nat) (fault : Option MoveFault) (p : Part) : Part :=
  match burstOf p t with
  | none => p
  | some b =>
    let p := modifyTurbine t (fun r =>
      { r with abandoned := abandonSeqs r.abandoned b.steps, released := r.confirmed }) p
    let p := dropBurst t p
    let p := match fault with
      | some x => recordFault t x p
      | none => p
    requeueMove t b.row p

def abandonBursts (ts : List Nat) (p : Part) : Part := ts.foldl (fun p t => abandonBurst t none p) p

/-- No row is left for which SE's arbiter could start a burst. -/
def noStartsDue (p : Part) : Part := { p with startsDue := false }

/-- The turbines with a burst in row `r`, in ascending number. -/
def rowBurstTurbines (p : Part) (r : Nat) : List Nat :=
  ascending ((p.se.bursts.filter fun b => b.row == r).map (·.turbine))

/-- R113: the burst is set ENDING; one with no outstanding step frees at once (R114). -/
def endBurst (t : Nat) (p : Part) : Part :=
  resolveIfDone t (modifyBurst t (fun b => { b with phase := .ending }) p)

/-- R78, R113: an OPEN row enters DRAINING and its bursts end at their step boundary. Its way on to
SETTLING or CLOSED, once no burst is left, is `settleRows` (Machine/RowSettling.lean). -/
def drainRow (r : Nat) (p : Part) : Part :=
  if rowIs p r .opened then
    let p := modifyRow r (fun row => { row with state := .draining, grace := .stopped }) p
    (rowBurstTurbines p r).foldl (fun p t => endBurst t p) p
  else p

/-- R73: an OPEN row with no startable entry and no burst drains at once. -/
def drainIfEmpty (r : Nat) (p : Part) : Part :=
  if rowIs p r .opened = true ∧ startableCount p r = 0 ∧ burstCount p r = 0 then drainRow r p else p

/-- R74: every OPEN row drains, in ascending row index. -/
def drainAllRows (p : Part) : Part := (rowIndices p).foldl (fun p r => drainRow r p) p

/-- The phase of a burst once a pause cause is set. -/
def pausedPhase : BurstPhase → BurstPhase
  | .running => .paused
  | ph => ph

/-- The phase of a burst left with the given causes. -/
def resumedPhase (gust lock : Bool) : BurstPhase → BurstPhase
  | .paused => if gust || lock then .paused else .running
  | ph => ph

/-- R72, R108: the start of a gust pause freezes grace timers and sets the GUST cause. -/
def gustStart (p : Part) : Part :=
  let p := p.onRsq fun q => { q with rows := q.rows.map fun row =>
    if row.state = .opened then { row with grace := row.grace.freeze } else row }
  p.onSe fun s => { s with bursts := s.bursts.map fun b =>
    { b with gust := true, phase := pausedPhase b.phase } }

/-- R72, R108: the end of a gust pause, less the step release tests that follow it. -/
def gustClear (p : Part) : Part :=
  let p := p.onRsq fun q => { q with rows := q.rows.map fun row => { row with grace := row.grace.thaw } }
  p.onSe fun s => { s with bursts := s.bursts.map fun b =>
    { b with gust := false, phase := resumedPhase false b.lock b.phase } }

end Sys2Proof.Machine
end

