-- ==== Sys2Proof/Machine/Fencing.lean ====
section
/-! DEFINITION. Fences of a row, of all rows and of a turbine (R55, R56, R81, R82, R131, R167). -/

namespace Sys2Proof.Machine

/-- R81 step 4, R131: RAU cuts off the row's round, stops its timer and discards its reload. -/
def fenceRealign (r : Nat) (p : Part) : Part :=
  modifyRealign r (fun u => { u with timer := .stopped, pendingReload := none, round := none }) p

/-- R81 steps 1, 2 and 4: the row is FENCED, its timers stop, its bursts are abandoned. -/
def fenceRowCore (r : Nat) (p : Part) : Part :=
  let p := modifyRow r (fun row => { row with state := .fenced, grace := .stopped, settle := .stopped }) p
  fenceRealign r (abandonBursts (rowBurstTurbines p r) p)

/-- R81: the fence of row `r`; a FENCED row is left as it is. -/
def fenceRow (r : Nat) (p : Part) : Part :=
  if rowIs p r .fenced then p
  else if r < p.rsq.rows.length then
    let p := fenceRowCore r p
    let p := forwardMoves (ascending (queueAt p r)) p
    raiseAlert .rowFenced (.row r) p
  else p

/-- R82: every row not FENCED is fenced, every move is forwarded, one alert per row is asked for. -/
def fenceAllRows (p : Part) : Part :=
  let rows := (rowIndices p).filter fun r => !rowIs p r .fenced
  let p := rows.foldl (fun p r => fenceRowCore r p) p
  let p := forwardMoves (liveTurbines p) p
  rows.foldl (fun p r => raiseAlert .rowFenced (.row r) p) p

/-- R131: a fenced turbine's entry leaves a round in progress. The round completes at the end of the
event when no entry is left PENDING (`completeRounds`). -/
def removeRoundEntry (t : Nat) (p : Part) : Part :=
  p.onRau fun u => { u with records := u.records.map fun rec =>
    { rec with round := rec.round.map fun rd =>
      { rd with entries := rd.entries.filter fun e => e.turbine != t } } }

/-- R55, R167 step 3: SE, MS and RAU take the fence of a turbine; a row that it leaves with nothing to
do drains before the read that met the fault goes on (R73). -/
def fenceTurbineBlocks (t : Nat) (p : Part) : Part :=
  let p := modifyTurbine t (fun r => { r with cond := .fenced }) p
  let p := removeRoundEntry t (forwardMove t (abandonBurst t none p))
  (rowIndices p).foldl (fun p r => drainIfEmpty r p) p

/-- R167 steps 1 to 3. -/
def fenceTurbine (t : Nat) (p : Part) : Part :=
  if fenceMark p t then p
  else
    let p := raiseAlert .turbineFenced (.turbine t) (setFenceMark t p)
    if sequencing p then fenceTurbineBlocks t p else p

end Sys2Proof.Machine
end

