-- ==== Sys2Proof/Machine/TableMemory.lean ====
section
/-! DEFINITION. Checked reads of Table Memory and their consequences (R163 to R169), the opening window's
revision (R70), and the table fields as blocks read them (R4). Page words of a page that is not
ACTIVE and sector-map words are in Machine/PageSwitch.lean, which owns their consequence. -/

namespace Sys2Proof.Machine

/-! ### Bookkeeping of a read -/

/-- R164 steps 3 and 4: correctable counter, last-correctable record. -/
def recordCorrected (a : Nat) (p : Part) : Part :=
  p.onTm fun m =>
    { m with correctable := min 65535 (m.correctable + 1), lastCorrectable := some (siteOf a) }

/-- R165 steps 1 and 2: uncorrectable counter, capture, UNCORRECTABLE alert. -/
def noteDamaged (rd : Reader) (a : Nat) (p : Part) : Part :=
  let p := p.onTm fun m => { m with uncorrectable := min 255 (m.uncorrectable + 1) }
  if p.tm.captureFrozen then p
  else raiseAlert .uncorrectable .nothing
    (p.onTm fun m => { m with capture := some { site := siteOf a, reader := rd }, captureFrozen := true })

/-- R166: the cold-reset default of field `f` is written into its word. -/
def writeDefault (f : Nat) (p : Part) : Part := writeWord f (BitVec.ofNat 32 (fieldDefault f)) p

/-- R166: the block becomes INVALID (INTEGRITY) unless it is LOADING, and MA is handed the release. -/
def invalidateConfig (p : Part) : Part :=
  if p.tm.config = .loading then p
  else requestRelease .integrity (setConfigValidity (.invalid .integrity) p)

/-- R164 step 5, for a threshold already read. -/
def wearTest (threshold : Nat) (p : Part) : Part :=
  if 0 < threshold ∧ threshold ≤ p.tm.correctable then
    (raiseAlert .wear .nothing p).onTm fun m => { m with correctable := 0 }
  else p

/-- R164 step 5: WearThreshold is read at each correctable read, its own word checked like any
other (reader: log entry 20). -/
def wearCheck (p : Part) : Part :=
  match checkWord (wordAt p Field.wearThreshold) with
  | .clean v => wearTest (clampField Field.wearThreshold v.toNat) p
  | .corrected v =>
    let th := clampField Field.wearThreshold v.toNat
    let p := recordCorrected Field.wearThreshold (writeWord Field.wearThreshold v p)
    wearTest th (wearTest th p)
  | .damaged =>
    let p := noteDamaged .check Field.wearThreshold p
    wearTest (fieldDefault Field.wearThreshold) (invalidateConfig (writeDefault Field.wearThreshold p))

/-! ### Words 2 and 3 of the config block (R70) -/

/-- The value of a config field as a read would deliver it (R4, R166), without the read's effects. -/
def deliveredField (p : Part) (f : Nat) : Nat :=
  match checkWord (wordAt p f) with
  | .clean v => clampField f v.toNat
  | .corrected v => clampField f v.toNat
  | .damaged => fieldDefault f

/-- The age of a window entry. -/
def windowAge (p : Part) (t : Count) : Nat := (p.now - t).toNat

/-- R70: entries too old leave, then the oldest while there are too many. -/
def revisedWindow (p : Part) (length limit : Nat) : List Count :=
  let l := p.rsq.window.filter fun t => decide (windowAge p t < length)
  l.drop (l.length - limit)

/-- R70's examination once both fields are known. -/
def applyWindow (length limit : Nat) (p : Part) : Part :=
  p.onRsq fun q => { q with window := revisedWindow p length limit }

/-- R70's examination with both words fresh. -/
def applyFreshWindow (p : Part) : Part :=
  applyWindow (deliveredField p Field.windowLength) (deliveredField p Field.windowLimit) p

/-- RSQ's read of word 2 or 3 at its examination. The other word was written a moment before, so the
write this read may make is handed back to RSQ with both words fresh. -/
def readWindowField (f : Nat) (p : Part) : Nat × Part :=
  match checkWord (wordAt p f) with
  | .clean v => (clampField f v.toNat, p)
  | .corrected v =>
    (clampField f v.toNat, wearCheck (recordCorrected f (applyFreshWindow (writeWord f v p))))
  | .damaged =>
    (fieldDefault f, invalidateConfig (applyFreshWindow (writeDefault f (noteDamaged .rsq f p))))

/-- R70: RSQ examines the opening window list against the two fields as delivered. -/
def reviseWindow (p : Part) : Part :=
  let (length, p) := readWindowField Field.windowLength p
  let (limit, p) := readWindowField Field.windowLimit p
  applyWindow length limit p

/-- R70: a write into word 2 or 3 of the config block is handed to RSQ. -/
def handWindowWrite (f : Nat) (p : Part) : Part :=
  if f = Field.windowLength ∨ f = Field.windowLimit then reviseWindow p else p

/-! ### A checked read (R163) -/

/-- R163 to R165: one checked read of the word at TM address `a`, less the consequence of an
uncorrectable word, which its owner's read adds. -/
def checkedRead (rd : Reader) (a : Nat) (p : Part) : Option Word × Part :=
  match checkWord (wordAt p a) with
  | .clean v => (some v, p)
  | .corrected v => (some v, wearCheck (recordCorrected a (handWindowWrite a (writeWord a v p))))
  | .damaged => (none, noteDamaged rd a p)

/-! ### Config fields -/

/-- R166: the consequence of an uncorrectable word of the config block. -/
def configDamaged (f : Nat) (p : Part) : Part :=
  invalidateConfig (handWindowWrite f (writeDefault f p))

/-- R4: config field `f` as delivered to a reader. -/
def readConfig (rd : Reader) (f : Nat) (p : Part) : Nat × Part :=
  match checkedRead rd f p with
  | (some v, p) => (clampField f v.toNat, p)
  | (none, p) => (fieldDefault f, configDamaged f p)

/-! ### Turbine table -/

/-- The turbine is named in a RefTurbine field of the config block. All four fields are read in turn, also after one
has named the turbine (log entry 52). -/
def namedReference (rd : Reader) (t : Nat) (p : Part) : Bool × Part :=
  [10, 11, 12, 13].foldl (fun acc f =>
    let (v, p) := readConfig rd f acc.2
    (acc.1 || decide (v = t), p)) (false, p)

/-- R167: the consequence for a turbine whose entry counts. The RefTurbine fields are read whatever the validity of
the turbine table (log entry 52). -/
def entryDamaged (t : Nat) (p : Part) : Part :=
  let (named, p) := namedReference .check t (fenceTurbine t p)
  if named ∧ p.tm.turbine ≠ .loading then
    requestRelease .integrity (setTurbineValidity (.invalid .integrity) p)
  else p

/-- Word 2t of a turbine's entry: present flag and ring address. -/
def readTurbineA (rd : Reader) (t : Nat) (p : Part) : Option Word × Part :=
  match checkedRead rd (turbineWordA t) p with
  | (some w, p) => (some w, p)
  | (none, p) => (none, entryDamaged t p)

/-- R167: an unreadable word 2t + 1 counts when word 2t shows the turbine present or is itself
uncorrectable. -/
def wordBDamaged (t : Nat) (p : Part) : Part :=
  match checkedRead .check (turbineWordA t) p with
  | (some w, p) => if presentOf w then entryDamaged t p else p
  | (none, p) => entryDamaged t p

/-- Word 2t + 1 of a turbine's entry: bypass flag and yaw rate. -/
def readTurbineB (rd : Reader) (t : Nat) (p : Part) : Option Word × Part :=
  match checkedRead rd (turbineWordB t) p with
  | (some w, p) => (some w, p)
  | (none, p) => (none, wordBDamaged t p)

/-- R175: scans entries from turbine `t` on, `n` of them. -/
def mapFrom (a : Addr) : Nat → Nat → Part → Option Nat × Part
  | 0, _, p => (none, p)
  | n + 1, t, p =>
    if fenceMark p t then mapFrom a n (t + 1) p
    else
      match readTurbineA .ti t p with
      | (some w, p) =>
        if presentOf w = true ∧ ringOf w = a then (some t, p) else mapFrom a n (t + 1) p
      | (none, p) => mapFrom a n (t + 1) p

/-- R175: the turbine a trunk address maps to. -/
def mapAddress (a : Addr) (p : Part) : Option Nat × Part := mapFrom a 192 1 p

/-! ### Words of the ACTIVE page -/

/-- R168: the consequence of an uncorrectable word of the ACTIVE page. -/
def activeWordDamaged (w : Nat) (p : Part) : Part :=
  if w = 0 then fenceAllRows p
  else if (w - 1) / 8 < p.rsq.rows.length then fenceRow ((w - 1) / 8) p
  else p

/-- Page word `w` of the active page. -/
def readActive (rd : Reader) (w : Nat) (p : Part) : Option Word × Part :=
  match p.rsq.activePage with
  | none => (none, p)
  | some n =>
    match checkedRead rd (pageWordAddr n w) p with
    | (some v, p) => (some v, p)
    | (none, p) => (none, activeWordDamaged w p)

/-- Reads page words `rowWord r k`, `rowWord r (k + 1)`, … `n` of them, stopping at one that cannot
be read. -/
def readActiveRun (rd : Reader) (r : Nat) : Nat → Nat → Part → Option (List Word) × Part
  | 0, _, p => (some [], p)
  | n + 1, k, p =>
    match readActive rd (rowWord r k) p with
    | (none, p) => (none, p)
    | (some w, p) =>
      match readActiveRun rd r n (k + 1) p with
      | (none, p) => (none, p)
      | (some ws, p) => (some (w :: ws), p)

/-- R11: the members of row `r` of the active page. -/
def rowMembers (rd : Reader) (r : Nat) (p : Part) : Option (List Nat) × Part :=
  match readActive rd (rowWord r 0) p with
  | (none, p) => (none, p)
  | (some w, p) =>
    let n := memberCountOf w
    match readActiveRun rd r (ceilDiv n 4) 1 p with
    | (none, p) => (none, p)
    | (some ws, p) => (some ((ws.flatMap membersOf).take n), p)

/-- R11: the feeders of row `r` of the active page, with their spacings. -/
def rowFeeders (rd : Reader) (r : Nat) (p : Part) : Option (List (Nat × Nat)) × Part :=
  match readActive rd (rowWord r 0) p with
  | (none, p) => (none, p)
  | (some w, p) =>
    match readActiveRun rd r (feederCountOf w) 5 p with
    | (none, p) => (none, p)
    | (some ws, p) => (some (ws.map fun w => (feederIndexOf w, spacingOf w)), p)

/-- Scans the listed rows for the one that lists turbine `t`, passing over FENCED rows. -/
def rowListing (rd : Reader) (t : Nat) : List Nat → Part → Option Nat × Part
  | [], p => (none, p)
  | r :: rs, p =>
    if rowIs p r .fenced then rowListing rd t rs p
    else
      match rowMembers rd r p with
      | (some ms, p) => if ms.contains t then (some r, p) else rowListing rd t rs p
      | (none, p) => rowListing rd t rs p

/-- R95, R177: the row of the active page, not FENCED, that lists turbine `t`. -/
def rowOf (rd : Reader) (t : Nat) (p : Part) : Option Nat × Part := rowListing rd t (rowIndices p) p

end Sys2Proof.Machine
end

