-- ==== Sys2Proof/Machine/RowSettling.lean ====
section
/-! DEFINITION. The Row Sequencer's way of a row from OPEN to CLOSED (chapter 4): wake delay, draining and
settling. -/

namespace Sys2Proof.Machine

/-! ### Wake delay (R75 to R77) -/

/-- R75: ceil(L × 25600 / (v × a)). -/
def propagationDelay (spacing speed advection : Nat) : Nat :=
  ceilDiv (spacing * 25600) (speed * advection)

/-- R76: the smoothed speed clamped to 30..250, 30 when there is none. -/
def wakeSpeed (w : Wru) : Nat :=
  match smoothedSpeed w with
  | some v => clampNat 30 250 v
  | none => 30

/-- R77 for one feeder entry of row `d` that names the closing row. -/
def raiseHoldUntil (d spacing speed : Nat) (p : Part) : Part :=
  let (a, p) := readConfig .rsq Field.advection p
  let t := p.now + BitVec.ofNat 32 (propagationDelay spacing speed a)
  modifyRow d (fun row => { row with holdUntil := laterTime row.holdUntil t }) p

/-- R77 for row `d`, FENCED rows passed over. -/
def raiseDownstream (r speed d : Nat) (p : Part) : Part :=
  if rowIs p d .fenced then p
  else
    match rowFeeders .rsq d p with
    | (none, p) => p
    | (some fs, p) =>
      match fs.find? (fun f => f.1 == r) with
      | some f => raiseHoldUntil d f.2 speed p
      | none => p

/-- The rows with index above `r`. -/
def rowsBelow (p : Part) (r : Nat) : List Nat := (rowIndices p).filter fun d => decide (r < d)

/-- R79: the row becomes CLOSED, then, when it moved, its downstream rows are raised. -/
def closeRow (r : Nat) (p : Part) : Part :=
  let p := modifyRow r (fun row => { row with state := .closed, settle := .stopped }) p
  match rowAt p r with
  | some row =>
    if row.moved then (rowsBelow p r).foldl (fun p d => raiseDownstream r (wakeSpeed p.wru) d p) p
    else p
  | none => p

/-! ### Draining on (R73, R78) -/

/-- R73, R78: an OPEN row with nothing to do drains, and a DRAINING row with no burst left settles or
closes. -/
def settleRow (r : Nat) (p : Part) : Part :=
  let p := drainIfEmpty r p
  if rowIs p r .draining = true ∧ burstCount p r = 0 then
    match readActive .rsq (rowWord r 7) p with
    | (none, p) => p
    | (some w, p) =>
      if 0 < settleOf w then
        modifyRow r (fun row => { row with state := .settling, settle := .running (settleOf w) }) p
      else closeRow r p
  else p

/-- R73, R78 for every row, in ascending index. -/
def settleRows (p : Part) : Part := (rowIndices p).foldl (fun p r => settleRow r p) p

end Sys2Proof.Machine
end

