-- ==== Sys2Proof/Machine/StepEngine.lean ====
section
/-! DEFINITION. The Step Engine (chapter 5): step release, confirmations, timeouts, locks, faults, reports,
burst starts, CLEAR; and what MS hands it at an AIM (R45 to R47, R54). -/

namespace Sys2Proof.Machine

/-! ### Step release (R101, R102) -/

def stepSize : StepMode → Int
  | .full => 40
  | .chop => 20

/-- R101: the released offset plus the sign of d times the smaller of step size and |d|. -/
def commandedOffset (released target : Int) (m : StepMode) : Int :=
  released + (target - released).sign * min (stepSize m) (target - released).natAbs

/-- R102: expected time plus StepMargin. -/
def stepTimeoutValue (magnitude yawRate margin : Nat) : Nat := ceilDiv (100 * magnitude) yawRate + margin

/-- R101: the effects of one release, its yaw rate and StepMargin read. -/
def issueStep (t yawRate margin : Nat) (p : Part) : Part :=
  match burstOf p t, slot p t with
  | some _, some m =>
    let r := turbineRec p t
    let cmd := commandedOffset r.released m.sp.target m.sp.mode
    let st : Step := { seq := r.nextSeq, commanded := cmd,
                       timeout := stepTimeoutValue (cmd - r.released).natAbs yawRate margin,
                       timer := .stopped }
    let p := insertFrame .f { frame := stepFrame (ownAddress p) m.sp.dst m.sp.tag r.nextSeq cmd m.sp.mode,
                              origin := .step } p
    let p := modifyBurst t (fun b => { b with steps := armOldest b.lock (b.steps ++ [st]) }) p
    let p := setTurbine t { r with released := cmd, nextSeq := r.nextSeq + 1,
                                   abandoned := r.abandoned.filter (· != r.nextSeq) } p
    p.onSe fun s => { s with stepsReleased := s.stepsReleased + 1 }
  | _, _ => p

/-- R101, R102: one step is released if the burst may release one and a place is free. A yaw rate
that cannot be read fences the turbine and releases nothing. The yaw rate is read without a test of the entry's
present flag: R8 has SE read it for a step and has no block read it in an entry not present, which a member of the
ACTIVE page can have after a TURBINE load in HOLD (log entry 47). Where the yaw-rate word of such an entry cannot be
read, the entry does not count (R167): nothing is released, and the burst goes on waiting (log entry 51). -/
def releaseStep (t : Nat) (p : Part) : Part :=
  if canRelease p t then
    match readTurbineB .se t p with
    | (none, p) => p
    | (some w, p) =>
      let (margin, p) := readConfig .se Field.stepMargin p
      issueStep t (yawRateOf w) margin p
  else p

/-- R99: the bursts that wait to release a step while a place is free, in ascending turbine number. -/
def waitingBursts (p : Part) : List Nat := (burstTurbines p).filter (canRelease p)

/-- R99: one place is offered to the listed bursts in turn, until one of them has released a step into it. -/
def offerPlace : List Nat → Part → Part
  | [], p => p
  | t :: l, p =>
    let q := releaseStep t p
    if q.se.stepsReleased = p.se.stepsReleased then offerPlace l q else q

/-- R99, R101: each free place is offered to the waiting bursts in ascending turbine number, until no burst takes one,
at most `n` places. -/
def serveBursts : Nat → Part → Part
  | 0, p => p
  | n + 1, p =>
    let q := offerPlace (waitingBursts p) p
    if q.se.stepsReleased = p.se.stepsReleased then q else serveBursts n q

/-- No more than the 32 places of the F-bound insertion queue can be taken. -/
def stepGrants : Nat := 48

/-- R101: the step release test of turbine `t`'s burst. Where it may release, the places go to every waiting burst
in the order of R99. -/
def releaseSteps (t : Nat) (p : Part) : Part := if canRelease p t then serveBursts stepGrants p else p

/-! ### Confirmation, mismatch, late confirmation (R103 to R107) -/

/-- R104. -/
def confirmStep (t : Nat) (b : Burst) (i : Nat) (commanded : Int) (p : Part) : Part :=
  let p := modifyBurst t (fun b => { b with steps := armOldest b.lock (b.steps.drop (i + 1)) }) p
  let p := modifyTurbine t (fun r => { r with confirmed := commanded }) p
  let p := p.onSe fun s => { s with stepsConfirmed := s.stepsConfirmed + BitVec.ofNat 32 (i + 1) }
  let p := modifyRow b.row (fun row => { row with moved := true }) p
  releaseSteps t (resolveIfDone t p)

/-- R105. -/
def mismatchStep (t : Nat) (b : Burst) (i : Nat) (applied : Int) (p : Part) : Part :=
  let p := modifyTurbine t (fun r =>
    { r with abandoned := abandonSeqs r.abandoned (b.steps.drop (i + 1)),
             released := applied, confirmed := applied }) p
  let p := makeSuspect t p
  let p := p.onSe fun s => { s with mismatches := s.mismatches + 1 }
  requeueMove t b.row (recordFault t .mismatch (dropBurst t p))

/-- R107. -/
def lateConfirm (t : Nat) (n : BitVec 4) (applied : Int) (p : Part) : Part :=
  let p := modifyTurbine t (fun r => { r with abandoned := r.abandoned.filter (· != n) }) p
  let p := p.onSe fun s => { s with lateConfirms := s.lateConfirms + 1 }
  let p := recordFault t .lateConfirm p
  let outstanding := match burstOf p t with
    | some b => !b.steps.isEmpty
    | none => false
  if outstanding then p
  else
    let p := modifyTurbine t (fun r => { r with released := applied, confirmed := applied }) p
    releaseSteps t (resolveIfDone t (offsetChanged t p))

/-- R103: stage 2 of a report. The named step is confirmed when its commanded offset and the applied
offset differ by no more than Tolerance. -/
def matchSequence (t : Nat) (n : BitVec 4) (applied : Int) (p : Part) : Part :=
  let named := match burstOf p t with
    | some b => (b.steps.findIdx? (fun s => s.seq == n)).bind fun i =>
        (b.steps[i]?).map fun s => (b, i, s.commanded)
    | none => none
  match named with
  | some (b, i, commanded) =>
    let (tol, p) := readConfig .se Field.tolerance p
    if (commanded - applied).natAbs ≤ tol then confirmStep t b i commanded p
    else mismatchStep t b i applied p
  | none => if (turbineRec p t).abandoned.contains n then lateConfirm t n applied p else p

/-! ### Locks and faults (R109 to R111) -/

/-- R109: the LOCK cause is set: lock timer loaded, oldest step's timer frozen, RUNNING paused. -/
def setLock (t : Nat) (p : Part) : Part :=
  let (limit, p) := readConfig .se Field.lockLimit p
  modifyBurst t (fun b =>
    { b with lock := true, lockTimer := .running limit, steps := mapOldestTimer Timer.freeze b.steps,
             phase := pausedPhase b.phase }) p

/-- R109: READY or MOVING clears the LOCK cause. -/
def clearLock (t : Nat) (p : Part) : Part :=
  let p := modifyBurst t (fun b =>
    { b with lock := false, lockTimer := .stopped, steps := mapOldestTimer Timer.thaw b.steps,
             phase := resumedPhase b.gust false b.phase }) p
  releaseSteps t p

/-- R109, R111: stage 3 of a report. A passed-through turbine has no burst (R95); where one has all the same (log entry
53), its burst is treated as any other (log entry 59). -/
def takeYaw (t : Nat) (passed : Bool) (y : YawStatus) (p : Part) : Part :=
  match burstOf p t with
  | some b =>
    match y with
    | .locked => if b.lock = false ∧ b.lockReached = false then setLock t p else p
    | .ready => if b.lock then clearLock t p else p
    | .moving => if b.lock then clearLock t p else p
    | .fault => abandonBurst t (some .turbineFault) (makeSuspect t p)
  | none => if y = .fault ∧ passed = false then makeSuspect t p else p

/-! ### Burst starts (R98 to R100) -/

/-- R98: whether a burst may start for row `r`, the row cap and BurstCap read in turn. -/
def mayStartBurst (r : Nat) (p : Part) : Bool × Part :=
  if rowIs p r .opened = true ∧ 1 ≤ startableCount p r ∧ 0 < freePlaces p .f ∧ gustPause p = false then
    match readActive .se (rowWord r 0) p with
    | (none, p) => (false, p)
    | (some w, p) =>
      if burstCount p r < rowCapOf w then
        let (cap, p) := readConfig .se Field.burstCap p
        (decide (p.se.bursts.length < cap), p)
      else (false, p)
  else (false, p)

/-- R100 step 2: RSQ reloads the row's grace timer; a word that cannot be read fences the row. -/
def reloadGrace (r : Nat) (p : Part) : Part :=
  match readActive .rsq (rowWord r 7) p with
  | (none, p) => p
  | (some w, p) => modifyRow r (fun row => { row with grace := .running (graceOf w) }) p

/-- R100 step 3: MS sets the head startable entry's move to BURST. -/
def takeMove (t : Nat) (p : Part) : Part :=
  modifyMove t (fun m => { m with phase := .burst }) (dequeue t p)

/-- R100: a burst starts for row `r` and turbine `t`, the head startable entry of its queue. The bypass flag of the
turbine is not tested: a member that a TURBINE load left bypassed on a page that stayed ACTIVE takes its burst (log
entry 53). -/
def startBurst (r t : Nat) (p : Part) : Part :=
  let p := addBurst { turbine := t, row := r, phase := .running, gust := false, lock := false,
                      lockTimer := .stopped, lockReached := false, steps := [] } p
  let p := if (turbineRec p t).yaw = some .locked then setLock t p else p
  let p := reloadGrace r p
  if rowIs p r .opened then releaseSteps t (resolveIfDone t (takeMove t p)) else p

/-- R99: the first of the listed rows for which a burst may start, with its head startable entry. -/
def nextStart : List Nat → Part → Option (Nat × Nat) × Part
  | [], p => (none, p)
  | r :: rs, p =>
    match mayStartBurst r p with
    | (true, p) => ((headStartable p r).map fun t => (r, t), p)
    | (false, p) => nextStart rs p

/-- R99: bursts start one by one, each for the OPEN row of lowest index that meets R98, until none can start, at
most `n` of them. -/
def startBursts : Nat → Part → Part
  | 0, p => p
  | n + 1, p =>
    match nextStart (rowIndices p) p with
    | (some (r, t), p) => startBursts n (startBurst r t p)
    | (none, p) => p

/-- Every start takes an entry out of a queue: 24 rows of at most 16 entries. -/
def startGrants : Nat := 384

/-- R99: one run of SE's arbiter: the waiting bursts are served, then bursts start until none can. -/
def runStarts (p : Part) : Part := startBursts startGrants (serveBursts stepGrants { p with startsDue := false })

/-! ### Gust pause end (R108) -/

/-- R72, R108: the end of a gust pause; the RUNNING bursts run their step release tests, and the arbiter is due
for the burst starts that the pause held back (`settleStarts`, at the end of the event). -/
def gustEnd (p : Part) : Part := serveBursts stepGrants { gustClear p with startsDue := true }

/-! ### Expiries (R106, R110) -/

/-- R106: the oldest outstanding step of the burst has timed out. The arbiter for the freed record (R98) follows at
the end of the event. -/
def timeoutStep (t : Nat) (b : Burst) (p : Part) : Part :=
  let p := makeSuspect t p
  let p := p.onSe fun s => { s with stepTimeouts := s.stepTimeouts + 1 }
  let p := modifyTurbine t (fun r =>
    { r with released := r.confirmed, abandoned := abandonSeqs r.abandoned b.steps }) p
  requeueMove t b.row (recordFault t .stepTimeout (dropBurst t p))

/-- R110. The arbiter for a record that frees (R114) follows at the end of the event. -/
def lockExpired (t : Nat) (p : Part) : Part :=
  let p := modifyBurst t (fun b =>
    { b with lockReached := true, lock := false, lockTimer := .stopped,
             steps := mapOldestTimer Timer.thaw b.steps, phase := .ending }) p
  resolveIfDone t (recordFault t .lockLimit p)

/-! ### CLEAR of a suspect turbine (R116) -/

/-- R116: SUSPECT to NORMAL. -/
def clearSuspect (t : Nat) (p : Part) : Part :=
  modifyTurbine t (fun r => { r with cond := .normal, misses := 0, abandoned := [] }) p

/-! ### AIMs at MS (R45 to R47, R54) -/

/-- The outcome of R47's comparison. -/
inductive BurstSupersede where
  | proceed
  | noFurther
  | reversal
  deriving DecidableEq, Repr

/-- R47: the direction of motion, then the new target against the released offset. -/
def compareSupersede (b : Burst) (r : TurbineRec) (oldTarget newTarget : Int) : BurstSupersede :=
  let dir := if b.steps.isEmpty then (oldTarget - r.released).sign else (r.released - r.confirmed).sign
  if newTarget = r.released then .noFurther
  else if (newTarget - r.released).sign = dir then .proceed
  else .reversal

/-- R112. -/
def takeSupersede (t : Nat) (b : Burst) (o : BurstSupersede) (p : Part) : Part :=
  if b.phase = .ending then p
  else
    match o with
    | .proceed => releaseSteps t p
    | .noFurther => resolveIfDone t p
    | .reversal => endBurst t p

/-- R47: an AIM supersedes a move in BURST. -/
def supersedeBurst (t : Nat) (m : Move) (sp : Setpoint) (p : Part) : Part :=
  let r := turbineRec p t
  let p := setSlot t (some { m with sp := sp }) p
  let p := p.onMs fun s => { s with supersedes := s.supersedes + 1 }
  match burstOf p t with
  | some b => takeSupersede t b (compareSupersede b r m.sp.target sp.target) p
  | none => p

/-- R45 to R47: one intake event at MS for turbine `t` of row `r`. -/
def intake (t r : Nat) (sp : Setpoint) (p : Part) : Part :=
  match slot p t with
  | none => createMove t r sp p
  | some m =>
    match m.phase with
    | .queued => supersedeQueued t m sp p
    | .burst => supersedeBurst t m sp p

/-- R177, R54: the turbine and row an AIM is diverted for, if it meets the diversion conditions. They are tested in
the order R177 lists them, and the reads of each are made only while the earlier ones hold (log entry 55). The member
lists of the ACTIVE page are read once, here, with reader TI, and MS's intake reads none (log entry 48). -/
def diversion (dst : Addr) (p : Part) : Option (Nat × Nat) × Part :=
  if sequencing p then
    match mapAddress dst p with
    | (none, p) => (none, p)
    | (some t, p) =>
      match readTurbineB .ti t p with
      | (none, p) => (none, p)
      | (some w, p) =>
        if bypassOf w then (none, p)
        else
          match rowOf .ti t p with
          | (some r, p) => (some (t, r), p)
          | (none, p) => (none, p)
  else (none, p)

/-- R44: an AIM with any field replaced adds one to the clamp count. -/
def countAimClamp (a : RawAim) (p : Part) : Part :=
  if aimReplaced a then p.onMs fun m => { m with aimClamps := m.aimClamps + 1 } else p

/-- R54: an AIM whose destination has a forward-list or in-flight entry. -/
def routeBehindForward (a : RawAim) (p : Part) : Part :=
  let p := countAimClamp a p
  let sp := setpointOf a
  match diversion a.dst p with
  | (some (t, r), p) => intake t r sp (removeForward a.dst p)
  | (none, p) => putForward { sp := sp, trailing := true } p

end Sys2Proof.Machine
end

