-- ==== Sys2Proof/Machine/RealignUnit.lean ====
section
/-! DEFINITION. The Realign Unit (chapter 6): rounds due, started, answered, completed and cut off; realign
expiries, credit and hold dues; the records' build. -/

namespace Sys2Proof.Machine

/-! ### Starting a round (R125 to R127) -/

/-- R125: the kind of the round due on row `r`, the table's rules tried from the top. -/
def roundDue (p : Part) (r : Nat) : Option RoundKind :=
  match realignAt p r with
  | none => none
  | some u =>
    match p.ma.mode with
    | .through => none
    | .hold => if 1 ≤ u.holdDues then some .hold else none
    | .engaged =>
      if u.exitDue then some .exit
      else if 4 ≤ u.credit then some .owed
      else if 1 ≤ u.credit ∧ startableCount p r = 0 then some .owed
      else if -7 ≤ u.credit ∧ u.credit ≤ 0 ∧ startableCount p r = 0 ∧ farmQuiet p = true then
        some .pullIn
      else none

/-- R125 condition 3: neither UNSEEN nor FENCED. -/
def affirmable (p : Part) (t : Nat) : Bool :=
  decide (condOf p t ≠ .unseen) && decide (condOf p t ≠ .fenced)

/-- The entry of turbine `t` leaves the round on row `r`. -/
def dropRoundEntry (r t : Nat) (p : Part) : Part :=
  modifyRealign r (fun u => { u with round := u.round.map fun rd =>
    { rd with entries := rd.entries.filter fun e => e.turbine != t } }) p

/-- R127: the AFFIRM frame of one member of the round on row `r`. A member whose entry cannot be read
leaves the round; so does one whose present flag is clear, since its ring address is read by no
block (R8, log entry 42). A bypassed member is sent its AFFIRM (log entry 53). -/
def sendAffirm (r : Nat) (number : BitVec 8) (t : Nat) (p : Part) : Part :=
  let sent := (turbineRec p t).released
  match readTurbineA .rau t p with
  | (none, p) => dropRoundEntry r t p
  | (some w, p) =>
    if presentOf w then
      let q : QFrame := { frame := affirmFrame (ownAddress p) (ringOf w) number sent, origin := .affirm }
      (insertFrame .f q p).onRau fun u => { u with affirmsSent := u.affirmsSent + 1 }
    else dropRoundEntry r t p

/-- R126: a round of kind `k` starts on row `r` with the members `ts`, in ascending number. -/
def startRound (r : Nat) (k : RoundKind) (ts : List Nat) (p : Part) : Part :=
  let number := p.rau.roundNumber + 1
  let p := p.onRau fun u => { u with roundNumber := number, roundsStarted := u.roundsStarted + 1 }
  let (limit, p) := readConfig .rau Field.affirmLimit p
  let entries := ts.map fun t =>
    ({ turbine := t, sent := (turbineRec p t).released, status := .pending } : RoundEntry)
  let p := modifyRealign r (fun u =>
    { u with round := some { kind := k, number := number, timer := .running limit, entries := entries },
             holdDues := if k = .hold then u.holdDues - 1 else u.holdDues }) p
  let p := setRowState r .affirming p
  ts.foldl (fun p t => sendAffirm r number t p) p

/-- R125: one round start. Rounds are served in ascending row index; a due row that lacks only places holds
back the rows after it. RAU reads a row's member list at each test, once the row is due and CLOSED and no switch
is pending, before conditions 3 and 4; a fault met there fences the row (R84, log entry 45). -/
def startFirstRound : List Nat → Part → Part
  | [], p => p
  | r :: rs, p =>
    match roundDue p r with
    | none => startFirstRound rs p
    | some k =>
      if rowIs p r .closed = true ∧ p.rsq.switch = none then
        match rowMembers .rau r p with
        | (none, p) => startFirstRound rs p
        | (some ms, p) =>
          let ts := ascending (ms.filter (affirmable p))
          if ts.isEmpty then startFirstRound rs p
          else if ts.length ≤ freePlaces p .f then startRound r k ts p
          else p
      else startFirstRound rs p

/-! ### Answers (R128, R129) -/

def entryPending (t : Nat) (e : RoundEntry) : Bool :=
  decide (e.turbine = t) && decide (e.status = .pending)

/-- The round in progress with this number in which the turbine has a PENDING entry, and the offset
sent. -/
def pendingAnswer (p : Part) (t : Nat) (n : BitVec 8) : Option (Nat × Int) :=
  (List.range p.rau.records.length).findSome? fun r =>
    match (realignAt p r).bind (·.round) with
    | some rd =>
      if rd.number = n then (rd.entries.find? (entryPending t)).map fun e => (r, e.sent) else none
    | none => none

def setEntryStatus (r t : Nat) (st : EntryStatus) (p : Part) : Part :=
  modifyRealign r (fun u => { u with round := u.round.map fun rd =>
    { rd with entries := rd.entries.map fun e => if entryPending t e then { e with status := st } else e } }) p

/-- R92, R129: SE takes the reported offset as the turbine's true position; MS compares its move's
target, then records the fault if the move stays. -/
def affirmMismatch (t : Nat) (applied : Int) (p : Part) : Part :=
  let p := modifyTurbine t (fun r => { r with released := applied, confirmed := applied }) p
  let p := makeSuspect t p
  recordFault t .affirmMismatch (offsetChanged t p)

/-- R128: one report event at RAU, in ENGAGED and HOLD. -/
def rauReport (t : Nat) (rep : Report) (p : Part) : Part :=
  if sequencing p then
    match rep.round with
    | none => p
    | some n =>
      match pendingAnswer p t n with
      | none => p
      | some (r, sent) =>
        let (tol, p) := readConfig .rau Field.tolerance p
        let p := modifyTurbine t (fun x => { x with misses := 0 }) p
        if (rep.applied - sent).natAbs ≤ tol then
          (setEntryStatus r t .confirmed p).onRau fun u => { u with affirmConfirms := u.affirmConfirms + 1 }
        else
          affirmMismatch t rep.applied
            ((setEntryStatus r t .mismatched p).onRau fun u =>
              { u with affirmMismatches := u.affirmMismatches + 1 })
  else p

/-! ### Completion (R130) -/

/-- R130 step 1 for one unanswered entry. -/
def countMiss (t : Nat) (p : Part) : Part :=
  let before := (turbineRec p t).misses
  let p := modifyTurbine t (fun r => { r with misses := min 2 (r.misses + 1) }) p
  let p := p.onRau fun u => { u with affirmMisses := u.affirmMisses + 1 }
  if before = 1 then makeSuspect t p else p

/-- The turbines of a round's PENDING entries, in ascending number. -/
def pendingTurbines (rd : Round) : List Nat :=
  ascending ((rd.entries.filter fun e => decide (e.status = .pending)).map (·.turbine))

/-- R130 steps 1 to 3: the round on row `r` ends. -/
def endRound (r : Nat) (p : Part) : Part :=
  match (realignAt p r).bind (·.round) with
  | none => p
  | some rd =>
    let p := (pendingTurbines rd).foldl (fun p t => countMiss t p) p
    let engaged := decide (p.ma.mode = .engaged)
    let p := modifyRealign r (fun u =>
      { u with credit := if engaged then max (-8) (u.credit - 1) else u.credit,
               exitDue := false, round := none }) p
    let p := p.onRau fun u => { u with roundsCompleted := u.roundsCompleted + 1 }
    if rowIs p r .affirming then setRowState r .closed p else p

/-- R125: `n` round starts, as far as rounds are due and can start. -/
def startRounds : Nat → Part → Part
  | 0, p => p
  | n + 1, p => startRounds n (startFirstRound (rowIndices p) p)

/-- R130: the round on row `r` completes: it ends, and RAU tests for further rounds within the event (step 4).
A page has at most 24 rows, so after 24 starts none is left that can start. The opening permission (R124) is a
matter of the record's values, so its change needs no hand-over. -/
def completeRound (r : Nat) (p : Part) : Part := startRounds 24 (endRound r p)

/-- R130: a round with no PENDING entry, which completes. -/
def roundAnswered (u : RealignRec) : Bool :=
  match u.round with
  | some rd => rd.entries.all fun e => decide (e.status ≠ .pending)
  | none => false

/-- The rows of such rounds, in ascending index: the round of the lowest completes first (log entry 60). -/
def answeredRows (p : Part) : List Nat := (rowIndices p).filter fun r => (realignAt p r).any roundAnswered

/-- R127, R128, R130, R131: rounds without a PENDING entry complete within the event, at most `n` of them. -/
def completeRounds : Nat → Part → Part
  | 0, p => p
  | n + 1, p =>
    match answeredRows p with
    | [] => p
    | r :: _ => completeRounds n (completeRound r p)

/-- The most rounds that can complete in one event, though every member leave each of them at once (R127): on
each of 24 rows the round in progress, an EXIT round, and the sixteen that bring a credit from 8 to −8. -/
def eventRounds : Nat := 432

/-! ### Realign expiries (R121, R123, R132) -/

/-- R123: an expiry at the limit. -/
def overrun (r : Nat) (u : RealignRec) (p : Part) : Part :=
  let p := p.onRau fun x => { x with overruns := x.overruns + 1 }
  if u.overrunAlerted then p
  else raiseAlert .realignOverrun (.row r) (modifyRealign r (fun u => { u with overrunAlerted := true }) p)

/-- R123 outside HOLD, R132 in HOLD; reaching a credit of 8 hands RSQ a forced realignment (R74). -/
def addOwed (r : Nat) (u : RealignRec) (p : Part) : Part :=
  if p.ma.mode = .hold then
    if u.holdDues < 8 then modifyRealign r (fun u => { u with holdDues := u.holdDues + 1 }) p
    else overrun r u p
  else if u.credit < 8 then
    let p := modifyRealign r (fun u => { u with credit := u.credit + 1 }) p
    if u.credit = 7 then drainRow r p else p
  else overrun r u p

/-- R121: the expired timer is loaded at once, with the pending reload if one is held. -/
def realignExpired (r : Nat) (u : RealignRec) (p : Part) : Part :=
  let (next, p) := match u.pendingReload with
    | some v => (v, p)
    | none => readConfig .rau Field.realignInterval p
  addOwed r u (modifyRealign r (fun u => { u with timer := .running next, pendingReload := none }) p)

/-- R122: a CONFIG load that ends VALID gives each running timer a pending reload. -/
def takePendingReload (p : Part) : Part :=
  let (v, p) := readConfig .rau Field.realignInterval p
  p.onRau fun u => { u with records := u.records.map fun rec =>
    if rec.timer.isRunning then { rec with pendingReload := some v } else rec }

/-! ### Building and leaving (R133, R134) -/

/-- R121, R134: the record of row `r`; a FENCED row's timer is stopped. -/
def freshRealign (interval : Nat) (exitDue : Bool) (p : Part) (r : Nat) : RealignRec :=
  { timer := if rowIs p r .fenced then .stopped else .running (interval + 50 * r),
    pendingReload := none, credit := 0, exitDue := exitDue, holdDues := 0, overrunAlerted := false,
    round := none }

/-- R134: RAU builds its records for the rows RSQ has built. -/
def buildRealign (exitDue : Bool) (p : Part) : Part :=
  let (interval, p) := readConfig .rau Field.realignInterval p
  p.onRau fun u => { u with records := (rowIndices p).map (freshRealign interval exitDue p) }

/-- R153 step 3. -/
def clearHoldDues (p : Part) : Part :=
  p.onRau fun u => { u with records := u.records.map fun rec => { rec with holdDues := 0 } }

/-- R133, R156 step 2: every row's hold dues are discarded, and every row not FENCED owes an exit
round. -/
def setExitDue (p : Part) : Part :=
  (rowIndices p).foldl (fun p r =>
    modifyRealign r (fun u => { u with exitDue := u.exitDue || !rowIs p r .fenced }) p) (clearHoldDues p)

end Sys2Proof.Machine
end

