-- ==== Sys2Proof/Machine/RowSequencer.lean ====
section
/-! DEFINITION. The Row Sequencer (chapter 4): eligibility and openings, and the build of the rows of a
page. Draining and settling stand in Machine/RowSettling.lean. -/

namespace Sys2Proof.Machine

/-! ### Eligibility (R63, R64) -/

/-- R61: the time now is at or after `t`. -/
def reached (p : Part) (t : Count) : Bool := !earlier p.now t

/-- R64: a feeder passes the feeder rule. -/
def feederPasses (p : Part) (f : Nat) : Bool :=
  match rowAt p f with
  | none => false
  | some row =>
    match row.state with
    | .fenced => true
    | .closed => decide (startableCount p f = 0)
    | .affirming => decide (startableCount p f = 0)
    | _ => false

/-- R63 conditions 1 to 5 and 8, and the row being CLOSED: those that read no table. -/
def standsReady (p : Part) (r : Nat) (row : RowRec) : Bool :=
  decide (row.state = .closed) && decide (p.ma.mode = .engaged) && decide (p.tm.config = .valid) &&
  decide (p.tm.turbine = .valid) && windFresh p && !gustPause p && !p.wru.planMissing &&
  decide (p.rsq.switch = none) && decide (1 ≤ startableCount p r) && reached p row.holdUntil &&
  permission p r

/-- R63 condition 6. -/
def cycleElapsed (row : RowRec) (p : Part) : Bool × Part :=
  match row.lastOpening with
  | none => (true, p)
  | some t =>
    let (cycle, p) := readConfig .rsq Field.rowCycle p
    (reached p (t + BitVec.ofNat 32 cycle), p)

/-- R63 condition 7. -/
def feedersPass (r : Nat) (p : Part) : Bool × Part :=
  match rowFeeders .rsq r p with
  | (none, p) => (false, p)
  | (some fs, p) => (fs.all fun f => feederPasses p f.1, p)

/-- R63 conditions 9 and 10. -/
def roomToOpen (p : Part) : Bool × Part :=
  let (rows, p) := readConfig .rsq Field.maxOpenRows p
  if openCount p < rows then
    let (limit, p) := readConfig .rsq Field.windowLimit p
    (decide (p.rsq.window.length < limit), p)
  else (false, p)

/-- R63: row `r` is eligible to open. The conditions that read a table are tested after the others,
each only when those before it hold (log entry 9). -/
def eligible (r : Nat) (p : Part) : Bool × Part :=
  match rowAt p r with
  | none => (false, p)
  | some row =>
    if standsReady p r row then
      match cycleElapsed row p with
      | (false, p) => (false, p)
      | (true, p) =>
        match feedersPass r p with
        | (false, p) => (false, p)
        | (true, p) => roomToOpen p
    else (false, p)

/-! ### Opening (R67) -/

/-- R67: the opening of row `r`; a grace word that cannot be read fences the row instead (R84). -/
def openRow (r : Nat) (p : Part) : Part :=
  match readActive .rsq (rowWord r 7) p with
  | (none, p) => p
  | (some w, p) =>
    let p := p.onRsq fun q => { q with window := q.window ++ [p.now] }
    modifyRow r (fun row =>
      { row with lastOpening := some p.now, moved := false, state := .opened,
                 grace := if gustPause p then .frozen (graceOf w) else .running (graceOf w) }) p

/-- R67: one grant, to the eligible row of lowest index among those listed. -/
def openFirst : List Nat → Part → Part
  | [], p => p
  | r :: rs, p =>
    match eligible r p with
    | (true, p) => openRow r p
    | (false, p) => openFirst rs p

def grantOpening (p : Part) : Part := openFirst (rowIndices p) p

/-- R67: a run of the arbiter grants until no row is eligible; a page has at most 24 rows. -/
def runArbiter : Nat → Part → Part
  | 0, p => p
  | n + 1, p => runArbiter n (grantOpening p)

/-! ### Building the rows of a page (R58, R85, R134) -/

/-- R85. -/
def freshRow (now : Count) : RowRec :=
  { state := .closed, grace := .stopped, settle := .stopped, lastOpening := none, holdUntil := now,
    moved := false }

/-- R58: a QUEUED move joins the queue of the row that lists its turbine. MS reads member lists for a live move
alone, from row 0 up to the row that lists its turbine (log entry 54). A move whose row's words cannot be read is
forwarded with that row's fence (R56). -/
def placeMove (p : Part) (t : Nat) : Part :=
  match slot p t with
  | none => p
  | some _ =>
    match rowOf .ms t p with
    | (some r, p) => if (slot p t).isSome then enqueue t r p else p
    | (none, p) => forwardMove t p

/-- R58: the queues are built afresh from the slots, in ascending turbine number. -/
def buildQueues (p : Part) : Part :=
  (liveTurbines p).foldl placeMove
    (p.onMs fun m => { m with queues := List.replicate p.rsq.rows.length [] })

/-- R85, R134: RSQ builds the rows of page `n`, MS the queues, RAU the records. A header that cannot
be read gives 24 rows, every one FENCED. -/
def buildRows (n : Nat) (exitDue : Bool) (p : Part) : Part :=
  let p := p.onRsq fun q => { q with activePage := some n, rows := [] }
  let p := p.onRau fun u => { u with records := [] }
  let p := p.onMs fun m => { m with queues := [] }
  match checkedRead .rsq (pageWordAddr n 0) p with
  | (some w, p) =>
    let p := p.onRsq fun q => { q with rows := List.replicate (rowCountOf w) (freshRow p.now) }
    buildRealign exitDue (buildQueues p)
  | (none, p) =>
    let p := p.onRsq fun q => { q with rows := List.replicate 24 (freshRow p.now) }
    let p := p.onMs fun m => { m with queues := List.replicate 24 [] }
    buildRealign exitDue (fenceAllRows p)

end Sys2Proof.Machine
end

