-- ==== Sys2Proof/Machine/PageSwitch.lean ====
section
/-! DEFINITION. Page switching (chapter 7), the sector map as blocks read it (R16, R169), and WRU's plan check
(R35), with the consequence of an uncorrectable word in a page that is not ACTIVE (R168). -/

namespace Sys2Proof.Machine

/-! ### Beginning, retargeting, cancelling (R138 to R142) -/

/-- R139 steps 1 and 2; the take test of step 4 is `takeTest`, at the end of the event, when the rows settle (log
entry 8). -/
def beginSwitch (n : Nat) (p : Part) : Part :=
  let (limit, p) := readConfig .rsq Field.switchLimit p
  let p := p.onRsq fun q =>
    { q with switch := some { target := n, limit := .running limit, retargeted := false },
             switchesBegun := q.switchesBegun + 1 }
  settleRows (drainAllRows p)

/-- R141. -/
def retargetSwitch (n : Nat) (sw : SwitchRec) (p : Part) : Part :=
  p.onRsq fun q => { q with switch := some { sw with target := n, retargeted := true },
                            retargets := q.retargets + 1 }

/-- R142 step 1. -/
def dropSwitch (p : Part) : Part :=
  p.onRsq fun q => { q with switch := none, cancellations := q.cancellations + 1 }

/-- R142 steps 1 and 2: the switch is dropped, and RAU starts the rounds that are due. -/
def endPending (p : Part) : Part := startRounds 24 (dropSwitch p)

/-- R142: a cancellation that WRU requests; without a pending switch it has no effect. -/
def cancelSwitch (p : Part) : Part :=
  match p.rsq.switch with
  | none => p
  | some _ => runArbiter 24 (endPending p)

/-- R138: a SWITCH or RETARGET to page `n`, by the record RSQ holds as it takes the request, which is the record the
plan check has read (log entry 56). -/
def requestPage (n : Nat) (p : Part) : Part :=
  match p.rsq.switch with
  | none => if pageValidity p n = .valid then beginSwitch n p else p
  | some sw =>
    if pageValidity p n = .valid then
      if n = sw.target then p else retargetSwitch n sw p
    else cancelSwitch p

/-! ### The sector map and the plan check (R16, R35, R169) -/

/-- The sector-map entry of sector `s`. An uncorrectable word is written with four NONE (R169). -/
def readEntry (rd : Reader) (s : Nat) (p : Part) : Byte × Part :=
  match checkedRead rd (1952 + s / 4) p with
  | (some w, p) => (wordByte w (s % 4), p)
  | (none, p) => (entryNone, writeWord (1952 + s / 4) allNone p)

/-- R35: plan-missing is set, with an alert when it was clear. -/
def setPlanMissing (p : Part) : Part :=
  if p.wru.planMissing then p
  else raiseAlert .planMissing .nothing (p.onWru fun w => { w with planMissing := true })

def clearPlanMissing (p : Part) : Part := p.onWru fun w => { w with planMissing := false }

/-- R35: the table of the plan check, for an entry as read. RSQ takes WRU's request at once, within the event of the
plan check, so no event of RSQ's own comes between the two (7.2, log entry 56). -/
def applyPlan (entry : Byte) (p : Part) : Part :=
  match entryPage entry with
  | none => cancelSwitch (setPlanMissing p)
  | some n =>
    match pageValidity p n with
    | .active => cancelSwitch (clearPlanMissing p)
    | .valid => requestPage n (clearPlanMissing p)
    | _ => cancelSwitch (setPlanMissing p)

/-- R35, R36: the plan check, in ENGAGED and HOLD with an active sector present. -/
def planCheck (p : Part) : Part :=
  if sequencing p then
    match p.wru.activeSector with
    | some a =>
      let (entry, p) := readEntry .wru a p
      applyPlan entry p
    | none => p
  else p

/-! ### Pages leaving VALID (R19, R168) -/

/-- R19, R36, R142: WRU runs its plan check; a pending switch to a page that is no longer VALID is
first cancelled by RSQ itself, with the rounds due (step 2) before the plan check (step 3) and the arbiter last
(step 4). -/
def pageChanged (n : Nat) (p : Part) : Part :=
  match p.rsq.switch with
  | some sw =>
    if sw.target = n ∧ pageValidity p n ≠ .valid then runArbiter 24 (planCheck (endPending p))
    else planCheck p
  | none => planCheck p

/-- R20: the change of page `n`, whose validity was `was`, is handed over when the page has entered or
left VALID. -/
def handPageChange (n : Nat) (was : Validity) (p : Part) : Part :=
  if was = .valid ↔ pageValidity p n = .valid then p else pageChanged n p

/-- R168: the consequence of an uncorrectable word `w` of page `n`, less the hand-over of a page that
leaves VALID (`handPageChange`). -/
def pageWordDamaged (n w : Nat) (p : Part) : Part :=
  match pageValidity p n with
  | .active => activeWordDamaged w p
  | .valid => setPageValidity n (.invalid .integrity) p
  | .invalid _ => setPageValidity n (.invalid .integrity) p
  | .loading => p

/-- Word `w` of page `n`, read by TM itself (CHECK or SCRUB). -/
def readPageWord (rd : Reader) (n w : Nat) (p : Part) : Option Word × Part :=
  match checkedRead rd (pageWordAddr n w) p with
  | (some v, p) => (some v, p)
  | (none, p) => (none, pageWordDamaged n w p)

/-! ### Taking a switch (R143 to R145) -/

/-- R19: the ACTIVE page returns to VALID; a page made INVALID while ACTIVE stays so (R15). -/
def retirePage (p : Part) : Part :=
  match p.rsq.activePage with
  | some n => if pageValidity p n = .active then setPageValidity n .valid p else p
  | none => p

/-- R145: the switch to page `n` is taken; WRU's plan check, for the old page that has become VALID
(R20, R36), follows the arbiter. The end of the pending switch that step 6 hands RAU starts no round on the new rows
within the event (7.8's table; log entry 50). -/
def takeSwitch (n : Nat) (forced : Bool) (p : Part) : Part :=
  let p := p.onRsq fun q =>
    if forced then { q with switch := none, switchesForced := q.switchesForced + 1 }
    else { q with switch := none, switchesTaken := q.switchesTaken + 1 }
  let p := setPageValidity n .active (retirePage p)
  let p := buildRows n false p
  let p := p.onMa fun m => { m with latches := [] }
  let p := raiseAlert (if forced then .switchForced else .switchTaken) (.page n) p
  planCheck (runArbiter 24 p)

/-- R143: a pending switch is taken when every row is CLOSED or FENCED. -/
def takeTest (p : Part) : Part :=
  match p.rsq.switch with
  | some sw => if rowsAtRest p then takeSwitch sw.target false p else p
  | none => p

/-- R144 step 1, for one row. -/
def cutSettle (row : RowRec) : RowRec :=
  if row.state = .settling then { row with state := .closed, settle := .stopped } else row

/-- R144 steps 2 and 3, for one row: no burst and no round is left. -/
def cutRow (row : RowRec) : RowRec :=
  if row.state = .draining ∨ row.state = .affirming then { row with state := .closed } else row

/-- R144: what remains is cut short, and the switch is forced. SE's arbiter for the records of the abandoned bursts
follows once the rows of the new page stand (7.8, time 3000; `settleStarts`). -/
def forceSwitch (n : Nat) (p : Part) : Part :=
  let p := p.onRsq fun q => { q with rows := q.rows.map cutSettle }
  let p := abandonBursts (burstTurbines p) p
  let p := p.onRau fun u => { u with records := u.records.map fun rec => { rec with round := none } }
  let p := p.onRsq fun q => { q with rows := q.rows.map cutRow }
  takeSwitch n true p

end Sys2Proof.Machine
end

