-- ==== Sys2Proof/Machine/Reports.lean ====
section
/-! DEFINITION. What follows within an event as bursts free and rows come to rest (R73, R78, R143, R114, R99), and a
turbine's report at the Step Engine (chapter 5). -/

namespace Sys2Proof.Machine

/-! ### Bursts free, rows close, a pending switch is taken -/

/-- R73, R78, R143, R114, R99: RSQ takes the burst counts, and a pending switch whose rows have come to rest is taken;
then SE runs its arbiter for the records that have freed; in turn until no record frees, at most `n` times. -/
def settleStarts : Nat → Part → Part
  | 0, p => takeTest (settleRows p)
  | n + 1, p =>
    let p := takeTest (settleRows p)
    if p.startsDue then settleStarts n (runStarts p) else p

/-- The most records that can free in one event: the 16 in use and those of the bursts that start. -/
def eventFreeings : Nat := 400

/-- R114, R98: once a record has freed, RSQ's tests and SE's arbiter follow within the event. -/
def runStartsDue (p : Part) : Part := if p.startsDue then settleStarts eventFreeings p else p

/-! ### Reports (R93 to R95) -/

/-- R94: the first STATE of an UNSEEN turbine. -/
def firstReport (t : Nat) (rep : Report) (p : Part) : Part :=
  let p := modifyTurbine t (fun r =>
    { r with released := rep.applied, confirmed := rep.applied,
             nextSeq := match rep.seq with
               | some n => n + 1
               | none => r.nextSeq,
             cond := if rep.yaw = .fault then .suspect else .normal }) p
  let p := if rep.yaw = .fault then raiseAlert .suspect (.turbine t) p else p
  offsetChanged t p

/-- R95: bypassed, listed by no row, or a member of a FENCED row; `none` when the turbine's entry
cannot be read. SE reads the bypass flag at every report it takes, and the member lists when the flag is clear, all
with reader SE (log entry 57). -/
def passedThrough (t : Nat) (p : Part) : Option Bool × Part :=
  match readTurbineB .se t p with
  | (none, p) => (none, p)
  | (some w, p) =>
    if bypassOf w then (some true, p)
    else
      match rowOf .se t p with
      | (some _, p) => (some false, p)
      | (none, p) => (some true, p)

/-- R93 stages 1 and 2. Where stage 2 frees a burst, its row closes, a pending switch is taken (R143) and its record and
place are granted anew (R114) before stage 3. A passed-through turbine's offsets are set whether or not it has a burst
(log entry 59). -/
def takeOffset (t : Nat) (passed : Bool) (rep : Report) (p : Part) : Part :=
  if passed = false ∧ condOf p t = .unseen then firstReport t rep p
  else
    let p := if passed then
        modifyTurbine t (fun r => { r with released := rep.applied, confirmed := rep.applied }) p
      else p
    match rep.seq with
    | some n => runStartsDue (matchSequence t n rep.applied p)
    | none => p

/-- R93: one report event at SE, in ENGAGED and HOLD. A turbine whose entry SE itself cannot read is
FENCED by that read, and nothing of the report is taken (log entry 40). -/
def seReport (t : Nat) (rep : Report) (p : Part) : Part :=
  if sequencing p then
    match passedThrough t p with
    | (none, p) => p
    | (some passed, p) =>
      let p := takeYaw t passed rep.yaw (takeOffset t passed rep p)
      modifyTurbine t (fun r => { r with yaw := some rep.yaw }) p
  else p

end Sys2Proof.Machine
end

