-- ==== Sys2Proof/Machine/ModeControl.lean ====
section
/-! DEFINITION. The part's modes (chapter 8): HOLD, leaving HOLD, ENGAGE, the return to THROUGH, warm reset, the
pending sector-map entry (R17), WRU's stop (R23), and what an event ends with. -/

namespace Sys2Proof.Machine

/-! ### Active sector and pending entry (R17, R32) -/

/-- R32: the active sector becomes `s`, with a SECTOR-CHANGE alert when it differs. -/
def setSector (s : Nat) (p : Part) : Part :=
  if p.wru.activeSector = some s then p
  else raiseAlert .sectorChange (.sector s) (p.onWru fun w => { w with activeSector := some s })

/-- R32: the active sector becomes none; the alert of this change has no sector to name (log entry
22). -/
def loseSector (p : Part) : Part :=
  if p.wru.activeSector = none then p
  else raiseAlert .sectorChange .nothing (p.onWru fun w => { w with activeSector := none })

/-- The stored word of the map, read before one of its entries is written (log entry 20). One that
cannot be read holds four NONE, and WRU runs its plan check (R169). -/
def readMapWord (w : Nat) (p : Part) : Word × Part :=
  match checkedRead .check (1952 + w) p with
  | (some v, p) => (v, p)
  | (none, p) => (allNone, planCheck (writeWord (1952 + w) allNone p))

/-- Writes one entry of the map. -/
def writeEntry (s : Nat) (b : Byte) (p : Part) : Part :=
  let (w, p) := readMapWord (s / 4) p
  writeWord (1952 + s / 4) (withEntry w (s % 4) b) p

/-- R17: the held value is written into the map and the pending entry is cleared. -/
def writePendingEntry (p : Part) : Part :=
  match p.tm.pendingEntry with
  | none => p
  | some (s, b) => (writeEntry s b p).onTm fun m => { m with pendingEntry := none }

/-! ### WRU's stop (R23) -/

/-- R23: the state returns to its cold reset value; a gust pause in force ends. -/
def stopWru (p : Part) : Part :=
  let p := if gustPause p then gustClear p else p
  p.onWru fun _ => Wru.cold

/-- R23: in THROUGH without a VALID config block WRU does not run. -/
def guardWru (p : Part) : Part := if wruRuns p then p else stopWru p

/-! ### Returning to THROUGH (R159) -/

/-- R159 step 1. -/
def enterThrough (c : ReleaseCause) (p : Part) : Part :=
  p.onMa fun m =>
    { m with mode := .through, holdCause := none, exitDeferred := false, silence := .stopped,
             lastRelease := some c,
             releases := if c = .disengage then m.releases else m.releases + 1 }

/-- R159 step 5, R88. -/
def clearSequencing (p : Part) : Part :=
  (retirePage p).onRsq fun q => { q with rows := [], switch := none, activePage := none }

/-- R32: WRU at the transition to THROUGH; it stops when the config block is not VALID. -/
def wruToThrough (p : Part) : Part :=
  let p := p.onWru fun w => { w with excursion := .stopped, planMissing := false }
  let p := writePendingEntry p
  if p.tm.config = .valid then
    match smoothedDirection p.wru with
    | some d => setSector (d / 225) p
    | none => loseSector p
  else stopWru (loseSector p)

/-- R158, R159: the return to THROUGH, for DISENGAGE and for each release. No row is left for which a burst could
start. RELEASED-TO-THROUGH carries no subject (log entry 44). -/
def returnToThrough (c : ReleaseCause) (p : Part) : Part :=
  let p := enterThrough c p
  let p := noStartsDue (abandonBursts (burstTurbines p) p)
  let p := forwardMoves (liveTurbines p) p
  let p := p.onMs fun m => { m with queues := [] }
  let p := p.onRau fun u => { u with records := [] }
  let p := wruToThrough (clearSequencing p)
  let p := p.onMa fun m => { m with latches := [] }
  if c = .disengage then p else raiseAlert .releasedToThrough .nothing p

/-- MA carries out a release handed to it within the event (log entry 5). -/
def carryOutRelease (p : Part) : Part :=
  match p.releaseDue with
  | none => p
  | some c =>
    let p := { p with releaseDue := none }
    if sequencing p then returnToThrough c p else p

/-- What a block's event ends with in ENGAGED and HOLD: rounds without a PENDING entry complete, empty
rows drain, settle or close, a pending switch at rest is taken, SE's arbiter runs for the records that have freed,
and a release due is carried out. -/
def settleEvent (p : Part) : Part :=
  noStartsDue (carryOutRelease (settleStarts eventFreeings (completeRounds eventRounds p)))

/-- What a block's event ends with; in THROUGH only WRU's stop can be left to do. -/
def finishEvent (p : Part) : Part := guardWru (if sequencing p then settleEvent p else p)

/-! ### HOLD (R153 to R157) -/

/-- R151, R152, R156: the silence timer is loaded with CtrlSilence, or stopped when that is 0. -/
def loadSilence (p : Part) : Part :=
  let (v, p) := readConfig .ma Field.ctrlSilence p
  p.onMa fun m => { m with silence := if v = 0 then .stopped else .running v }

/-- R153: HOLD is entered from ENGAGED. -/
def enterHold (c : HoldCause) (p : Part) : Part :=
  let p := p.onMa fun m =>
    { m with mode := .hold, holdCause := some c, silence := .stopped,
             holdsByCommand := if c = .command then m.holdsByCommand + 1 else m.holdsByCommand,
             holdsBySilence := if c = .silence then m.holdsBySilence + 1 else m.holdsBySilence }
  let p := clearHoldDues (settleRows (drainAllRows p))
  raiseAlert .holdEntered (.cause c) p

/-- R156: the leave from HOLD, carried out; step 4's arbiter finds every permission withdrawn (log entry
11). HOLD-LEFT carries no subject (log entry 44). RAU's test for the exit rounds now due follows within the event
(8.8, time 150). -/
def carryOutLeave (p : Part) : Part :=
  let p := p.onMa fun m => { m with mode := .engaged, holdCause := none, exitDeferred := false }
  let p := setExitDue (loadSilence p)
  startRounds 24 (raiseAlert .holdLeft .nothing p)

/-- R156, R157: a leave from HOLD, deferred while a CONFIG or TURBINE load is LOADING. -/
def leaveHold (p : Part) : Part :=
  if loadHoldsMode p then p.onMa fun m => { m with exitDeferred := true }
  else carryOutLeave p

/-- R152, R156: the arrival of a valid frame at the C port, after the frame has been handled. -/
def arrival (p : Part) : Part :=
  match p.ma.mode with
  | .through => p
  | .engaged => finishEvent (loadSilence p)
  | .hold =>
    if p.ma.holdCause = some .silence ∧ p.ma.exitDeferred = false then finishEvent (leaveHold p) else p

/-! ### ENGAGE (R150, R151) -/

/-- R151 step 2, R117: every record cold, the turbines whose marks are set FENCED. -/
def engageTurbines (p : Part) : Part :=
  p.onSe fun s => { s with turbines :=
    (p.tm.fences.filter (·.2)).map fun e => (e.1, { TurbineRec.cold with cond := .fenced }) }

/-- R151: ENGAGE is taken for page `n`. -/
def takeEngage (n : Nat) (p : Part) : Part :=
  let p := p.onMa fun m => { m with mode := .engaged, holdCause := none, exitDeferred := false }
  let p := engageTurbines (loadSilence p)
  buildRows n false (setPageValidity n .active p)

/-! ### Resets (R21, R161, R183) -/

/-- R181, R183: an insertion queue is emptied, but a frame being sent completes. -/
def emptyInsertion (ps : PortState) : PortState :=
  { ps with insertion := if ps.sending = some .insertion then ps.insertion.take 1 else [],
            servedLast := .insertion }

/-- R181, R183: a cold reset of a port; a frame being sent completes. -/
def coldPort (ps : PortState) : PortState :=
  { PortState.cold with
    sending := ps.sending,
    through := if ps.sending = some .through then ps.through.take 1 else [],
    insertion := if ps.sending = some .insertion then ps.insertion.take 1 else [] }

/-- R174: the frame in progress at a port when a reset occurs, if there is one, is dropped and counted as
bad. -/
def cutFrame (port : Port) (inProgress : Bool) (p : Part) : Part :=
  if inProgress then
    onPort port (fun ps => { ps with received := ps.received + 1, droppedBad := ps.droppedBad + 1 }) p
  else p

/-- R174 for both ports. -/
def cutFrames (cutC cutF : Bool) (p : Part) : Part := cutFrame .f cutF (cutFrame .c cutC p)

/-- R21: a cold reset of the whole part, with the straps sampled. -/
def coldReset (strap : BitVec 4) (p : Part) : Part :=
  (Part.cold strap).onTi fun t => { t with c := coldPort p.ti.c, f := coldPort p.ti.f }

/-- R60: the live moves are discarded and counted. -/
def discardMoves (p : Part) : Part :=
  p.onMs fun m => { m with slots := [], queues := [], forward := [], inFlight := [],
                           discarded := m.discarded + BitVec.ofNat 32 m.slots.length }

/-- R119, R135, R89, R38, R173: the blocks' warm reset values. -/
def warmBlocks (p : Part) : Part :=
  let p := (retirePage p).onSe fun _ => Se.cold
  let p := p.onRau fun u => { Rau.cold with roundNumber := u.roundNumber }
  let p := p.onRsq fun _ => Rsq.cold
  let p := p.onWru fun _ => Wru.cold
  p.onTm fun m => { m with fences := [] }

/-- R161 step 1: TI empties both insertion queues. -/
def emptyQueues (p : Part) : Part :=
  p.onTi fun t => { t with c := emptyInsertion t.c, f := emptyInsertion t.f }

/-- R161 from MA's part of step 2 on, after an open load is aborted; it ends in HOLD on the page that was
ACTIVE, or in THROUGH. -/
def warmReset (p : Part) : Part :=
  let was := p.ma.mode
  let page := p.rsq.activePage
  let p := p.onMa fun m =>
    { m with exitDeferred := false, silence := .stopped, latches := [], sticky := 0, answers := [],
             load := none }
  let p := warmBlocks (discardMoves p)
  match was, page with
  | .through, _ => p
  | _, none => p.onMa fun m => { m with mode := .hold, holdCause := some .command }
  | _, some n =>
    let p := p.onMa fun m => { m with mode := .hold, holdCause := some .command }
    buildRows n true (setPageValidity n .active p)

end Sys2Proof.Machine
end

