-- ==== Sys2Proof/Machine/WindReference.lean ====
section
/-! DEFINITION. The Wind Reference Unit (chapter 2): the six stages of a usable report and the excursion expiry. -/

namespace Sys2Proof.Machine

/-- R30: stage 1. A gust starts the pause, or reloads the running timer. -/
def gustTest (speed : Nat) (p : Part) : Part :=
  match smoothedSpeed p.wru with
  | none => p
  | some v =>
    let (margin, p) := readConfig .wru Field.gustMargin p
    if v + margin < speed then
      let (hold, p) := readConfig .wru Field.gustHold p
      let begins := !gustPause p
      let p := p.onWru fun w => { w with gust := .running hold }
      if begins then gustStart p else p
    else p

/-- R26: 16 × s when unseeded, else acc − floor(acc / 8) + 2 × s. -/
def smoothSpeed (w : Wru) (s : Nat) : Nat :=
  if w.seeded then w.speedAcc - w.speedAcc / 8 + 2 * s else 16 * s

/-- R27: the difference wrapped into −28800..28799. -/
def wrapDirection (diff : Int) : Int :=
  if diff < -28800 then diff + 57600 else if 28799 < diff then diff - 57600 else diff

/-- R27: 16 × d when unseeded, else one eighth of the wrapped difference, truncated toward zero. -/
def smoothDirection (w : Wru) (d : Nat) : Nat :=
  if w.seeded then
    (((w.dirAcc : Int) + (wrapDirection (16 * (d : Int) - (w.dirAcc : Int))).tdiv 8) % 57600).toNat
  else 16 * d

/-- R26, R27: stage 2. -/
def smoothWind (speed direction : Nat) (w : Wru) : Wru :=
  { w with seeded := true, speedAcc := smoothSpeed w speed, dirAcc := smoothDirection w direction }

/-- R33: the smoothed direction lies inside the widened span of sector `a`. -/
def insideSpan (a d h : Nat) : Bool :=
  decide (((d : Int) - 225 * (a : Int) + (h : Int)) % 3600 ≤ 224 + 2 * (h : Int))

/-- R33: the span test. -/
def spanTest (a d : Nat) (p : Part) : Part :=
  let (h, p) := readConfig .wru Field.sectorHysteresis p
  if insideSpan a d h then p.onWru fun w => { w with excursion := .stopped }
  else if p.wru.excursion.isRunning then p
  else
    let (dwell, p) := readConfig .wru Field.sectorDwell p
    p.onWru fun w => { w with excursion := .running dwell }

/-- R32, R33: stage 5. -/
def trackSector (p : Part) : Part :=
  match smoothedDirection p.wru with
  | none => p
  | some d =>
    match sequencing p, p.wru.activeSector with
    | true, some a => spanTest a d p
    | _, _ => setSector (d / 225) (p.onWru fun w => { w with excursion := .stopped })

/-- R25: a usable report, stages 1 to 6. -/
def usableStages (speed direction : Nat) (p : Part) : Part :=
  let p := gustTest speed p
  let p := p.onWru (smoothWind speed direction)
  let (silence, p) := readConfig .wru Field.refSilence p
  let p := p.onWru fun w => { w with freshness := .running silence }
  let p := if sequencing p then writePendingEntry p else p
  planCheck (trackSector p)

/-- R23, R24: one report event at WRU. -/
def wruReport (rep : Report) (p : Part) : Part :=
  if wruRuns p && usableReport rep then usableStages rep.speed rep.direction p else p

/-- R34: the excursion expiry. -/
def excursionExpired (p : Part) : Part :=
  let p := p.onWru fun w => { w with excursion := .stopped }
  match smoothedDirection p.wru with
  | none => p
  | some d =>
    let p := writePendingEntry p
    let p := p.onWru fun w => { w with activeSector := some (d / 225) }
    planCheck (raiseAlert .sectorChange (.sector (d / 225)) p)

end Sys2Proof.Machine
end

