-- ==== Sys2Proof/Machine/TableLoad.lean ====
section
/-! DEFINITION. Table loads (chapter 1, R189 to R195): words written, clamps, validation, revalidation, the ends
of a load, and fence recovery (R172). -/

namespace Sys2Proof.Machine

/-! ### Writing words (R3, R16, R17, R191) -/

/-- A sector-map word with its unknown entries stored as NONE (R16). -/
def storedMapWord (v : Word) : Word :=
  storedEntry (wordByte v 0) ++ storedEntry (wordByte v 1) ++ storedEntry (wordByte v 2) ++
    storedEntry (wordByte v 3)

/-- R16: the entries of a written word that count as clamped. -/
def mapClampCount (v : Word) : Nat :=
  ([wordByte v 0, wordByte v 1, wordByte v 2, wordByte v 3].filter entryClamped).length

/-- R16, R17: one sector-map word is written; in ENGAGED and HOLD the active sector's entry is held
as the pending entry instead. -/
def writeMapWord (w : Nat) (v : Word) (p : Part) : Part :=
  let stored := storedMapWord v
  match sequencing p, p.wru.activeSector with
  | true, some a =>
    if a / 4 = w then
      let (old, p) := readMapWord w p
      let p := p.onTm fun m => { m with pendingEntry := some (a, wordByte stored (a % 4)) }
      writeWord (1952 + w) (withEntry stored (a % 4) (wordByte old (a % 4))) p
    else writeWord (1952 + w) stored p
  | _, _ => writeWord (1952 + w) stored p

/-- R191: one LOAD-DATA word goes into its table word. -/
def writeLoadWord (t : Table) (i : Nat) (v : Word) (p : Part) : Part :=
  match t with
  | .config => handWindowWrite i (writeWord i v p)
  | .sectorMap => writeMapWord i v p
  | t => writeWord (tableBase t + i) v p

/-- R191: the words, in order, from table word `i` onward. -/
def writeLoadWords (t : Table) : Nat → List Word → Part → Part
  | _, [], p => p
  | i, v :: vs, p => writeLoadWords t (i + 1) vs (writeLoadWord t i v p)

/-! ### Failed loads (R16, R18, R19) -/

/-- R16: NONE into `n` words of the map from word `w` on. -/
def blankMap : Nat → Nat → Part → Part
  | 0, _, p => p
  | n + 1, w, p => blankMap n (w + 1) (writeMapWord w allNone p)

/-- R18: a CONFIG or TURBINE load leaves LOADING for INVALID; in HOLD the part is released. -/
def releaseInHold (p : Part) : Part :=
  if p.ma.mode = .hold then requestRelease .loadFailed p else p

/-- R192 to R194: the table after a load that did not reach validation. -/
def failTable (c : LoadCtx) (p : Part) : Part :=
  match c.table with
  | .config => releaseInHold (setConfigValidity (.invalid .loadFailed) p)
  | .turbine => releaseInHold (setTurbineValidity (.invalid .loadFailed) p)
  | .page n => planCheck (setPageValidity n (.invalid .loadFailed) p)
  | .sectorMap => blankMap c.count c.first p

/-- R195. -/
def setLastLoad (t : Table) (o : LoadOutcome) (p : Part) : Part :=
  p.onMa fun m => { m with lastLoad := some (t, o) }

/-- R193: the part ends an OPEN load on its first error. -/
def endLoadOnError (c : LoadCtx) (e : LoadError) (p : Part) : Part :=
  let p := p.onMa fun m => { m with load := some { c with idle := .stopped, ended := some e } }
  setLastLoad c.table (.failed e) (failTable c p)

/-- R22, R161: a warm reset aborts an OPEN load; no plan check and no release follow. -/
def abortLoadAtReset (p : Part) : Part :=
  match p.ma.load with
  | some c =>
    if c.ended = none then
      let p := match c.table with
        | .config => setConfigValidity (.invalid .loadFailed) p
        | .turbine => setTurbineValidity (.invalid .loadFailed) p
        | .page n => setPageValidity n (.invalid .loadFailed) p
        | .sectorMap => (List.range c.count).foldl (fun p i => writeWord (1952 + c.first + i) allNone p) p
      setLastLoad c.table (.failed .aborted) p
    else p
  | none => p

/-! ### Outcomes of the clamps and checks -/

/-- A pass over a table: how many fields were clamped, whether a word could not be read. -/
structure Pass where
  clamped : Nat
  damaged : Bool
  deriving DecidableEq, Repr

/-- R20, R170: the outcome of a load's end. -/
def loadOutcome (ps : Pass) (checks : Bool) : LoadOutcome :=
  if ps.damaged then .integrity ps.clamped
  else if checks then .valid ps.clamped
  else .checkFailed ps.clamped

def outcomeValidity : LoadOutcome → Validity
  | .valid _ => .valid
  | .checkFailed _ => .invalid .checkFailed
  | .integrity _ => .invalid .integrity
  | .failed _ => .invalid .loadFailed

/-! ### CONFIG (R6, R7) -/

/-- R6 for one field: read with reader CHECK, clamped, written back and counted. -/
def clampConfigField (f : Nat) (acc : Nat × Part) : Nat × Part :=
  match checkedRead .check f acc.2 with
  | (none, p) => (acc.1, configDamaged f p)
  | (some v, p) =>
    let c := clampField f v.toNat
    if c = v.toNat then (acc.1, p)
    else (acc.1 + 1, handWindowWrite f (writeWord f (BitVec.ofNat 32 c) p))

/-- R170: some word of the config block cannot be read. The pass over the 24 fields reads every one of
them, by its own reads or by those they give rise to (R70, R164). -/
def configUnreadable (p : Part) : Bool :=
  (List.range 24).any fun f => decide (checkWord (wordAt p f) = .damaged)

/-- The RefTurbine fields as the clamps left them. -/
def storedReferences (p : Part) : List Nat := [10, 11, 12, 13].map fun f => (wordAt p f).value.toNat

def noRepeats : List Nat → Bool
  | [] => true
  | n :: l => !l.contains n && noRepeats l

/-- The named turbines whose entry shows the present flag, read one by one; an unreadable entry
counts as not present (R170). The reading goes on after an entry that fails the check (log entry 49). -/
def allPresent : List Nat → Part → Bool × Part
  | [], p => (true, p)
  | t :: ts, p =>
    match readTurbineA .check t p with
    | (some w, p) =>
      let r := allPresent ts p
      (presentOf w && r.1, r.2)
    | (none, p) => (false, (allPresent ts p).2)

/-- R7. The turbine entries of check 3 are read only when checks 1 and 2 pass (log entry 39). -/
def checkConfig (p : Part) : Bool × Part :=
  let refs := (storedReferences p).filter (· != 0)
  if refs.isEmpty = true ∨ noRepeats refs = false then (false, p)
  else if p.tm.turbine = .valid then allPresent refs p
  else (true, p)

/-- R6, R7, R20, R170: the end of a CONFIG load. -/
def endConfigLoad (p : Part) : LoadOutcome × Part :=
  let damaged := configUnreadable p
  let (clamped, p) := (List.range 24).foldl (fun acc f => clampConfigField f acc) (0, p)
  let (ok, p) := if damaged then (false, p) else checkConfig p
  let o := loadOutcome { clamped := clamped, damaged := damaged } ok
  let p := setConfigValidity (outcomeValidity o) p
  (o, if outcomeValidity o = .valid then takePendingReload p else releaseInHold p)

/-! ### TURBINE (R9) -/

/-- R9's clamp for one turbine: only a present entry's yaw rate is read and clamped. -/
def clampTurbine (t : Nat) (acc : Pass × Part) : Pass × Part :=
  match readTurbineA .check t acc.2 with
  | (none, p) => ({ acc.1 with damaged := true }, p)
  | (some a, p) =>
    if presentOf a then
      match readTurbineB .check t p with
      | (none, p) => ({ acc.1 with damaged := true }, p)
      | (some b, p) =>
        if yawRateOf b = rawYawRate b then (acc.1, p)
        else ({ acc.1 with clamped := acc.1.clamped + 1 },
              writeWord (turbineWordB t) (withYawRate b (yawRateOf b)) p)
    else (acc.1, p)

def turbineNumbers : List Nat := (List.range 192).map (· + 1)

/-- The ring addresses of the present entries, as just read. -/
def storedRings (p : Part) : List Nat :=
  (turbineNumbers.filter fun t => presentOf (wordAt p (turbineWordA t)).value).map
    fun t => (ringOf (wordAt p (turbineWordA t)).value).toNat

/-- The RefTurbine fields as delivered. -/
def readReferences (rd : Reader) (p : Part) : List Nat × Part :=
  [10, 11, 12, 13].foldl (fun acc f =>
    let (v, p) := readConfig rd f acc.2
    (acc.1 ++ [v], p)) ([], p)

/-- R9 checks 1 to 3. The RefTurbine fields of check 3 are read only when checks 1 and 2 pass (log entry
39). -/
def checkTurbines (p : Part) : Bool × Part :=
  let rings := storedRings p
  if (rings.all fun a => decide (1 ≤ a) && decide (a ≤ 0x7EFF)) = false ∨ noRepeats rings = false then
    (false, p)
  else if p.tm.config = .valid then
    let (refs, p) := readReferences .check p
    ((refs.filter (· != 0)).all fun t => presentOf (wordAt p (turbineWordA t)).value, p)
  else (true, p)

/-! ### PAGE (R12 to R14) -/

/-- Writes a page word whose fields `n` of them were clamped. -/
def putClamped (n page w : Nat) (v : Word) (acc : Pass × Part) : Pass × Part :=
  if n = 0 then acc
  else ({ acc.1 with clamped := acc.1.clamped + n }, writeWord (pageWordAddr page w) v acc.2)

def changed (a b : Nat) : Nat := if a = b then 0 else 1

/-- R12 for the spacing of one feeder word. -/
def clampSpacing (n w : Nat) (acc : Pass × Part) : Pass × Part :=
  match readPageWord .check n w acc.2 with
  | (none, p) => ({ acc.1 with damaged := true }, p)
  | (some v, p) =>
    putClamped (changed (spacingOf v) (wordLow v)) n w (withLow v (spacingOf v)) (acc.1, p)

/-- R12 for grace and settle. -/
def clampTimes (n w : Nat) (acc : Pass × Part) : Pass × Part :=
  match readPageWord .check n w acc.2 with
  | (none, p) => ({ acc.1 with damaged := true }, p)
  | (some v, p) =>
    putClamped (changed (graceOf v) (wordHigh v) + changed (settleOf v) (wordLow v)) n w
      (withHigh (withLow v (settleOf v)) (graceOf v)) (acc.1, p)

/-- R12 for one row: the row cap, the spacings within the feeder count, grace and settle. -/
def clampRow (n r : Nat) (acc : Pass × Part) : Pass × Part :=
  match readPageWord .check n (rowWord r 0) acc.2 with
  | (none, p) => clampTimes n (rowWord r 7) ({ acc.1 with damaged := true }, p)
  | (some v, p) =>
    let acc := putClamped (changed (rowCapOf v) (wordLow v)) n (rowWord r 0) (withLow v (rowCapOf v)) (acc.1, p)
    let acc := (List.range (feederCountOf v)).foldl (fun acc i => clampSpacing n (rowWord r (5 + i)) acc) acc
    clampTimes n (rowWord r 7) acc

/-- R12: the clamps of a page, when its row count lies in 1..24. -/
def clampPage (n : Nat) (p : Part) : Pass × Part :=
  match readPageWord .check n 0 p with
  | (none, p) => ({ clamped := 0, damaged := true }, p)
  | (some v, p) =>
    if 1 ≤ v.toNat ∧ v.toNat ≤ 24 then
      (List.range v.toNat).foldl (fun acc r => clampRow n r acc) ({ clamped := 0, damaged := false }, p)
    else ({ clamped := 0, damaged := false }, p)

/-- A row as the structural check reads it. -/
structure RowPlan where
  members : List Nat
  feeders : List Nat
  deriving DecidableEq, Repr

/-- What reading a page for its checks gives. -/
inductive PageRead where
  | unreadable
  | broken
  | rows (l : List RowPlan)
  deriving DecidableEq, Repr

/-- Reads `k` words of page `n` from word `w` on. -/
def readPageRun (n : Nat) : Nat → Nat → Part → Option (List Word) × Part
  | 0, _, p => (some [], p)
  | k + 1, w, p =>
    match readPageWord .check n w p with
    | (none, p) => (none, p)
    | (some v, p) =>
      match readPageRun n k (w + 1) p with
      | (none, p) => (none, p)
      | (some vs, p) => (some (v :: vs), p)

/-- Reads rows `r`, `r + 1`, … `k` of them; a row failing check 2 of R13 ends the reading, and so does a word
that cannot be read (log entry 46). -/
def readRows (n : Nat) : Nat → Nat → Part → PageRead × Part
  | 0, _, p => (.rows [], p)
  | k + 1, r, p =>
    match readPageWord .check n (rowWord r 0) p with
    | (none, p) => (.unreadable, p)
    | (some v, p) =>
      if rawMemberCount v = 0 ∨ 16 < rawMemberCount v ∨ 2 < rawFeederCount v then (.broken, p)
      else
        match readPageRun n (ceilDiv (rawMemberCount v) 4) (rowWord r 1) p with
        | (none, p) => (.unreadable, p)
        | (some ms, p) =>
          match readPageRun n (rawFeederCount v) (rowWord r 5) p with
          | (none, p) => (.unreadable, p)
          | (some fs, p) =>
            let plan : RowPlan := { members := (ms.flatMap rawMembers).take (rawMemberCount v),
                                    feeders := fs.map rawFeederIndex }
            match readRows n k (r + 1) p with
            | (.rows l, p) => (.rows (plan :: l), p)
            | other => other

/-- R13 checks 3 to 6. -/
def rowsSound (l : List RowPlan) : Bool :=
  let members := l.flatMap (·.members)
  (members.all fun t => decide (1 ≤ t) && decide (t ≤ 192)) && noRepeats members &&
    (l.zipIdx.all fun e => (e.1.feeders.all fun f => decide (f < e.2)) && noRepeats e.1.feeders)

/-- R13: the structural check; the rows as read when it passes. An uncorrectable word ends it, at a PAGE
LOAD-END as at a revalidation (R170, log entry 46). -/
def structuralCheck (n : Nat) (p : Part) : PageRead × Part :=
  match readPageWord .check n 0 p with
  | (none, p) => (.unreadable, p)
  | (some v, p) =>
    if v.toNat = 0 ∨ 24 < v.toNat then (.broken, p)
    else
      match readRows n v.toNat 0 p with
      | (.rows l, p) => if rowsSound l then (.rows l, p) else (.broken, p)
      | other => other

/-- R14: whether turbine `t` is present and not bypassed; an unreadable entry is not present
(R170). -/
def needsRow (t : Nat) (p : Part) : Bool × Part :=
  match readTurbineA .check t p with
  | (none, p) => (false, p)
  | (some a, p) =>
    if presentOf a then
      match readTurbineB .check t p with
      | (none, p) => (false, p)
      | (some b, p) => (!bypassOf b, p)
    else (false, p)

/-- R14: a member is present and not bypassed, and every such turbine is a member. The unreadable entry
of a turbine that is no member breaks neither condition (log entry 41). All 192 entries are read, also after one
has failed the check (log entry 49). -/
def membershipCheck (members : List Nat) : List Nat → Part → Bool × Part
  | [], p => (true, p)
  | t :: ts, p =>
    let (needs, p) := needsRow t p
    let r := membershipCheck members ts p
    (decide (needs = members.contains t) && r.1, r.2)

/-- The outcome of a page's checks. -/
inductive PageCheck where
  | unreadable
  | fails
  | passes
  deriving DecidableEq, Repr

/-- R13, R14: the membership check is made while the turbine table is VALID. -/
def checkPage (n : Nat) (p : Part) : PageCheck × Part :=
  match structuralCheck n p with
  | (.unreadable, p) => (.unreadable, p)
  | (.broken, p) => (.fails, p)
  | (.rows l, p) =>
    if p.tm.turbine = .valid then
      let (ok, p) := membershipCheck (l.flatMap (·.members)) turbineNumbers p
      (if ok then .passes else .fails, p)
    else (.passes, p)

/-- R12 to R14, R20: the end of a PAGE load. -/
def endPageLoad (n : Nat) (p : Part) : LoadOutcome × Part :=
  let (ps, p) := clampPage n p
  let (chk, p) := if ps.damaged then (.unreadable, p) else checkPage n p
  let o := loadOutcome { ps with damaged := ps.damaged || decide (chk = .unreadable) } (decide (chk = .passes))
  (o, planCheck (setPageValidity n (outcomeValidity o) p))

/-! ### Revalidation and fence recovery (R15, R172) -/

/-- R15 for a page that fails. -/
def failRevalidation (n : Nat) (p : Part) : Part :=
  match pageValidity p n with
  | .active => requestRelease .revalidation (setPageValidity n (.invalid .checkFailed) p)
  | .valid => setPageValidity n (.invalid .checkFailed) p
  | _ => p

/-- R15 for a page that passes. -/
def passRevalidation (n : Nat) (p : Part) : Part :=
  match pageValidity p n with
  | .invalid _ => setPageValidity n .valid p
  | _ => p

/-- R15: pages VALID, ACTIVE or INVALID (CHECK-FAILED) are checked. -/
def revalidated : Validity → Bool
  | .valid => true
  | .active => true
  | .invalid .checkFailed => true
  | _ => false

/-- R15 for one page. -/
def revalidatePage (n : Nat) (p : Part) : Part :=
  if revalidated (pageValidity p n) then
    match checkPage n p with
    | (.unreadable, p) => p
    | (.fails, p) => failRevalidation n p
    | (.passes, p) => passRevalidation n p
  else p

/-- R15: pages 0 to 7 in ascending page number. -/
def revalidatePages (p : Part) : Part := (List.range 8).foldl (fun p n => revalidatePage n p) p

/-- R20: each page that has entered or left VALID since `old` is handed over, in ascending page number. -/
def handPageChanges (old p : Part) : Part :=
  (List.range 8).foldl (fun p n => handPageChange n (pageValidity old n) p) p

/-- R92, R172: a FENCED turbine returns to service as UNSEEN. -/
def returnTurbine (r : TurbineRec) : TurbineRec :=
  if r.cond = .fenced then { r with cond := .unseen, misses := 0, abandoned := [] } else r

/-- R172: every fence mark is cleared and every fenced turbine returns. -/
def recoverFences (p : Part) : Part :=
  let p := turbineNumbers.foldl (fun p t => if fenceMark p t then modifyTurbine t returnTurbine p else p) p
  p.onTm fun m => { m with fences := [] }

/-- R15, R20, R172: a turbine table that has become VALID is handed to the pages, then to SE, then each
changed page to WRU and RSQ; a release due is carried out after them. -/
def adoptTurbines (p : Part) : Part := handPageChanges p (recoverFences (revalidatePages p))

/-- R9, R15, R20: the end of a TURBINE load. -/
def endTurbineLoad (p : Part) : LoadOutcome × Part :=
  let (ps, p) := turbineNumbers.foldl (fun acc t => clampTurbine t acc) ({ clamped := 0, damaged := false }, p)
  let (ok, p) := if ps.damaged then (false, p) else checkTurbines p
  let o := loadOutcome ps ok
  let p := setTurbineValidity (outcomeValidity o) p
  (o, if outcomeValidity o = .valid then adoptTurbines p else releaseInHold p)

/-- R192: both count and CRC agree: the clamps and the validation of the table. -/
def endLoad (c : LoadCtx) (p : Part) : LoadOutcome × Part :=
  match c.table with
  | .config => endConfigLoad p
  | .turbine => endTurbineLoad p
  | .page n => endPageLoad n p
  | .sectorMap => (.valid c.mapClamped, p)

end Sys2Proof.Machine
end

