-- ==== Sys2Proof/Machine/Answers.lean ====
section
/-! DEFINITION. Answers of the Management Agent (R184, R186 to R188, R196, R197; 10.6): result items, their widths
and codes, and the split into MRSP parts. -/

namespace Sys2Proof.Machine

/-! ### Widths and codes (10.6, "Answer fields") -/

def num1 (n : Nat) : List Byte := [BitVec.ofNat 8 n]
def num2 (n : Nat) : List Byte := be16 (BitVec.ofNat 16 n)
def num4 (n : Nat) : List Byte := be32 (BitVec.ofNat 32 n)
def signed1 (n : Int) : List Byte := [BitVec.ofInt 8 n]
def flag (b : Bool) : List Byte := [if b then 1#8 else 0#8]

/-- None, or an optional field that is absent, within a record and for a value that may be none. -/
def noneByte : List Byte := [0xFF#8]

/-- 11.2: an item whose value is absent has value length 0. -/
def optItem {α : Type} (enc : α → List Byte) : Option α → List Byte
  | some a => enc a
  | none => []

/-- An enumerated value that may be none. -/
def orNone {α : Type} (enc : α → List Byte) : Option α → List Byte
  | some a => enc a
  | none => noneByte

def modeByte : Mode → List Byte
  | .through => num1 0 | .engaged => num1 1 | .hold => num1 2

def releaseCauseByte : ReleaseCause → List Byte
  | .disengage => num1 0 | .integrity => num1 1 | .loadFailed => num1 2 | .revalidation => num1 3

def reasonCode : Reason → Nat
  | .neverLoaded => 1 | .loadFailed => 2 | .checkFailed => 3 | .integrity => 4

def validityBytes : Validity → List Byte
  | .invalid r => num1 0 ++ num1 (reasonCode r)
  | .loading => num1 1 ++ num1 0
  | .valid => num1 2 ++ num1 0
  | .active => num1 3 ++ num1 0

def rowStateByte : RowState → List Byte
  | .closed => num1 0 | .affirming => num1 1 | .opened => num1 2
  | .draining => num1 3 | .settling => num1 4 | .fenced => num1 5

def conditionByte : Condition → List Byte
  | .unseen => num1 0 | .normal => num1 1 | .suspect => num1 2 | .fenced => num1 3

def yawByte : YawStatus → List Byte
  | .ready => num1 0 | .moving => num1 1 | .locked => num1 2 | .fault => num1 3

def movePhaseByte : MovePhase → List Byte
  | .queued => num1 0 | .burst => num1 1

def moveFaultByte : MoveFault → List Byte
  | .stepTimeout => num1 1 | .mismatch => num1 2 | .turbineFault => num1 3
  | .lockLimit => num1 4 | .lateConfirm => num1 5 | .affirmMismatch => num1 6

def burstPhaseByte : BurstPhase → List Byte
  | .running => num1 0 | .paused => num1 1 | .ending => num1 2

/-- The LOAD-BEGIN table code, then a page-number byte. -/
def tableBytes : Table → List Byte
  | .config => num1 0 ++ num1 0
  | .turbine => num1 1 ++ num1 0
  | .page n => num1 2 ++ num1 n
  | .sectorMap => num1 3 ++ num1 0

def entryBytes : Entry → List Byte
  | .field n => num1 n | .turbine n => num1 n | .header => noneByte | .row n => num1 n
  | .sectors n => num1 n

def readerByte : Reader → List Byte
  | .ti => num1 0 | .wru => num1 1 | .ms => num1 2 | .rsq => num1 3 | .se => num1 4
  | .rau => num1 5 | .ma => num1 6 | .check => num1 7 | .scrub => num1 8

def loadErrorCode : LoadError → Nat
  | .sequence => 1 | .overrun => 2 | .timeout => 3 | .short => 4 | .crc => 5 | .aborted => 6

/-- R195; the clamp count follows where the outcome has one. -/
def outcomeBytes : LoadOutcome → List Byte
  | .valid n => num1 0 ++ num1 n
  | .checkFailed n => num1 21 ++ num1 n
  | .integrity n => num1 22 ++ num1 n
  | .failed e => num1 (loadErrorCode e)

def siteBytes (x : FaultSite) : List Byte := tableBytes x.table ++ entryBytes x.entry ++ num2 x.word

def captureBytes (c : Capture) : List Byte := siteBytes c.site ++ readerByte c.reader

/-! ### Parts (R184, 10.6) -/

/-- One result item: number, value length, value. -/
def itemBytes (n : Nat) (v : List Byte) : List Byte := num1 n ++ num1 v.length ++ v

/-- Items numbered from `n` on. -/
def numberItems : Nat → List (List Byte) → List (List Byte)
  | _, [] => []
  | n, v :: vs => itemBytes n v :: numberItems (n + 1) vs

/-- Whole items into parts of at most 195 bytes, each part filled as far as the next item allows
(log entry 10). -/
def packItems (cur : List Byte) : List (List Byte) → List (List Byte)
  | [] => [cur]
  | i :: is => if cur.length + i.length ≤ 195 then packItems (cur ++ i) is else cur :: packItems i is

/-- MRSP header bytes and items of each part; bit 7 of the part byte marks the last. -/
def partPayloads (tag : BitVec 16) (result reason : Nat) (n : Nat) : List (List Byte) → List (List Byte)
  | [] => []
  | [l] => [be16 tag ++ num1 result ++ num1 reason ++ num1 (n + 128) ++ l]
  | l :: ls => (be16 tag ++ num1 result ++ num1 reason ++ num1 n ++ l) ::
      partPayloads tag result reason (n + 1) ls

def buildAnswer (src : Addr) (tag : BitVec 16) (result reason : Nat) (values : List (List Byte)) : Answer :=
  { dst := src, parts := partPayloads tag result reason 0 (packItems [] (numberItems 1 values)) }

/-- R184: an answer goes to the tail of the answer list. -/
def pushAnswer (a : Answer) (p : Part) : Part := p.onMa fun m => { m with answers := m.answers ++ [a] }

def answerOk (src : Addr) (tag : BitVec 16) (values : List (List Byte)) (p : Part) : Part :=
  pushAnswer (buildAnswer src tag 0 0 values) p

def answerBusy (src : Addr) (tag : BitVec 16) (p : Part) : Part :=
  pushAnswer (buildAnswer src tag 1 0 []) p

def answerRefused (src : Addr) (tag : BitVec 16) (reason : Nat) (p : Part) : Part :=
  pushAnswer (buildAnswer src tag 2 reason []) p

def answerFailed (src : Addr) (tag : BitVec 16) (reason : Nat) (values : List (List Byte)) (p : Part) :
    Part :=
  pushAnswer (buildAnswer src tag 3 reason values) p

/-! Reason codes (10.6, R185). -/

namespace Why
def notEngaged : Nat := 7
def configInvalid : Nat := 8
def turbineInvalid : Nat := 9
def windStale : Nat := 10
def noPlan : Nat := 11
def noLoad : Nat := 12
def malformed : Nat := 16
def range : Nat := 17
def sequencing : Nat := 18
def tableInUse : Nat := 19
def notSuspect : Nat := 20
def checkFailed : Nat := 21
def integrity : Nat := 22
end Why

/-- The MRSP frame of one part (R184). -/
def responseFrame (own dst : Addr) (payload : List Byte) : Frame :=
  { dst := dst, src := own, kind := kindMrsp, payload := payload }

/-! ### STATUS (R186) -/

def countItem (c : Count) : List Byte := be32 c

def modeItems (m : Ma) : List (List Byte) :=
  [modeByte m.mode, optItem (fun c => num1 (holdCauseCode c)) m.holdCause, flag m.exitDeferred,
   num4 m.silence.left, optItem releaseCauseByte m.lastRelease, countItem m.holdsByCommand,
   countItem m.holdsBySilence, countItem m.releases]

def windItems (p : Part) : List (List Byte) :=
  [optItem num2 (smoothedSpeed p.wru), optItem num2 (smoothedDirection p.wru), flag (windFresh p),
   flag (gustPause p), orNone num1 p.wru.activeSector, flag p.wru.planMissing]

/-- R148; the items of an absent switch: log entry 23. -/
def switchItems (q : Rsq) : List (List Byte) :=
  [orNone num1 q.activePage, optItem (fun sw => num1 sw.target) q.switch,
   num4 (match q.switch with | some sw => sw.limit.left | none => 0),
   flag (match q.switch with | some sw => sw.retargeted | none => false),
   countItem q.switchesBegun, countItem q.retargets, countItem q.cancellations,
   countItem q.switchesTaken, countItem q.switchesForced]

def tableItems (p : Part) : List (List Byte) :=
  validityBytes p.tm.config :: validityBytes p.tm.turbine ::
    (List.range 8).map fun n => validityBytes (pageValidity p n)

def moveItems (m : Ms) : List (List Byte) :=
  [num1 m.slots.length, countItem m.created, countItem m.done, countItem m.forwarded,
   countItem m.discarded, countItem m.supersedes, countItem m.aimClamps]

def stepItems (s : Se) : List (List Byte) :=
  [num1 s.bursts.length, countItem s.stepsReleased, countItem s.stepsConfirmed,
   countItem s.stepTimeouts, countItem s.mismatches, countItem s.lateConfirms]

def roundItems (u : Rau) : List (List Byte) :=
  [countItem u.roundsStarted, countItem u.roundsCompleted, countItem u.affirmsSent,
   countItem u.affirmConfirms, countItem u.affirmMismatches, countItem u.affirmMisses,
   countItem u.overruns]

/-- The load context: table, page, first word, count, received, expected sequence, state. -/
def loadCtxBytes (c : LoadCtx) : List Byte :=
  tableBytes c.table ++ num2 c.first ++ num2 c.count ++ num2 c.received ++ [c.expectedSeq] ++
    num1 (if c.ended.isSome then 1 else 0)

def agentItems (m : Ma) : List (List Byte) :=
  [be16 m.sticky, countItem m.droppedAlerts, [m.alertSeq],
   optItem (fun x => tableBytes x.1 ++ outcomeBytes x.2) m.lastLoad, optItem loadCtxBytes m.load,
   countItem m.requestsDropped, countItem m.requestsMalformed]

def trunkItems (t : Ti) : List (List Byte) :=
  [countItem t.c.received, countItem t.f.received, countItem t.c.droppedBad, countItem t.f.droppedBad,
   countItem t.c.droppedLong, countItem t.f.droppedLong, countItem t.c.droppedOverflow,
   countItem t.f.droppedOverflow, countItem t.c.forwarded, countItem t.f.forwarded,
   countItem t.c.inserted, countItem t.f.inserted, countItem t.aimsDiverted,
   countItem t.aimsForwardedThrough, countItem t.aimsMalformed, countItem t.stateMalformed,
   countItem t.mreqsDroppedAtF, countItem t.mreqsDroppedBroadcast]

/-- R186: the 79 items of STATUS. -/
def statusValues (p : Part) : List (List Byte) :=
  modeItems p.ma ++ windItems p ++ switchItems p.rsq ++ tableItems p ++ moveItems p.ms ++
    stepItems p.se ++ roundItems p.rau ++ agentItems p.ma ++ trunkItems p.ti ++
    [countItem p.ms.forwardDropped]

/-! ### ERROR-READ (R187) -/

/-- The turbine numbers whose fence marks are set, in ascending order. -/
def fencedTurbines (p : Part) : List Nat := turbineNumbers.filter (fenceMark p)

def errorValues (p : Part) : List (List Byte) :=
  [num4 p.tm.correctable, optItem siteBytes p.tm.lastCorrectable, num4 p.tm.uncorrectable,
   optItem captureBytes p.tm.capture, flag p.tm.captureFrozen, num2 p.tm.scrubPointer,
   (fencedTurbines p).flatMap num1]

/-! ### MOVE-READ (R188) -/

/-- The move record of R40. -/
def moveBytes (t : Nat) (m : Move) : List Byte :=
  num1 t ++ be16 m.sp.dst ++ be16 m.sp.src ++ be16 m.sp.tag ++ offsetBytes m.sp.target ++
    [modeCode m.sp.mode, urgencyCode m.sp.urgency] ++ be32 m.arrival ++ movePhaseByte m.phase ++
    flag m.resumed ++ orNone moveFaultByte m.firstFault

def stepBytes (s : Step) : List Byte :=
  [s.seq.setWidth 8] ++ offsetBytes s.commanded ++ num4 s.timer.left ++ flag s.timer.isFrozen

/-- Phase, pause causes, remaining lock time, outstanding steps (R118). -/
def burstBytes (b : Burst) : List Byte :=
  burstPhaseByte b.phase ++ num1 ((if b.gust then 1 else 0) + (if b.lock then 2 else 0)) ++
    num4 b.lockTimer.left ++ b.steps.flatMap stepBytes

/-- R188 item 12, for the word that holds the ring address as read. -/
def waitingItem (p : Part) : Option Word → List Byte
  | some w => flag (presentOf w && forwardListHas p (ringOf w))
  | none => []

def moveReadValues (t : Nat) (w : Option Word) (p : Part) : List (List Byte) :=
  let r := turbineRec p t
  [num1 t, offsetBytes r.released, offsetBytes r.confirmed, conditionByte r.cond, orNone yawByte r.yaw,
   num1 r.misses, [r.nextSeq.setWidth 8], r.abandoned.map (·.setWidth 8), flag (fenceMark p t),
   optItem (moveBytes t) (slot p t), optItem burstBytes (burstOf p t), waitingItem p w]

/-! ### Snapshots (R90, R136, R196, R197) -/

/-- R90: the grace or settle timer's remaining time. -/
def rowRemaining (row : RowRec) : Nat :=
  match row.state with
  | .opened => row.grace.left
  | .settling => row.settle.left
  | _ => 0

/-- R196: the figures latched for a row. -/
def latchOf (p : Part) (r : Nat) (row : RowRec) : Latch :=
  { time := p.now, state := row.state, remaining := rowRemaining row,
    toHoldUntil := if earlier p.now row.holdUntil then row.holdUntil - p.now else 0,
    queueLength := (queueAt p r).length, startable := startableCount p r, bursts := burstCount p r,
    moved := row.moved,
    credit := match realignAt p r with | some u => u.credit | none => 0,
    realignLeft := match realignAt p r with | some u => u.timer.left | none => 0,
    reloadPending := match realignAt p r with | some u => u.pendingReload.isSome | none => false }

def latchAt (p : Part) (r : Nat) : Option Latch := Store.get (fun _ => none) p.ma.latches r

def setLatch (r : Nat) (l : Option Latch) (p : Part) : Part :=
  p.onMa fun m => { m with latches := Store.put (fun _ => none) m.latches r l }

def latchBytes (r : Nat) (l : Latch) : List Byte :=
  num1 r ++ be32 l.time ++ rowStateByte l.state ++ num4 l.remaining ++ be32 l.toHoldUntil ++
    num1 l.queueLength ++ num1 l.startable ++ num1 l.bursts ++ flag l.moved ++ signed1 l.credit ++
    num4 l.realignLeft ++ flag l.reloadPending

/-- The 24-bit row mask at payload bytes 3 to 5. -/
def maskOf (fields : List Byte) : BitVec 24 := byteAt fields 0 ++ byteAt fields 1 ++ byteAt fields 2

/-- The masked rows of the active page, in ascending index. -/
def maskedRows (p : Part) (mask : BitVec 24) : List Nat := (rowIndices p).filter (mask.getLsbD ·)

def maskFrom (rows : List Nat) : BitVec 24 := rows.foldl (fun m r => m ||| (1#24 <<< r)) 0#24

/-- R196: fills the latch of a row whose latch is empty. -/
def latchRow (p : Part) (r : Nat) : Part :=
  match rowAt p r, latchAt p r with
  | some row, none => setLatch r (some (latchOf p r row)) p
  | _, _ => p

end Sys2Proof.Machine
end

