-- ==== Sys2Proof/Machine/Requests.lean ====
section
/-! DEFINITION. What each management request does (R150, R154, R156, R158, R185 to R199), before the commands of
Machine/Management.lean wrap it in its arrival. -/

namespace Sys2Proof.Machine

/-- R185 check 1: a payload too short for the request's fields. -/
def needBytes (n : Nat) (src : Addr) (tag : BitVec 16) (fields : List Byte) (g : Part → Part)
    (p : Part) : Part :=
  if fields.length < n then answerRefused src tag Why.malformed p else g p

/-- R186. -/
def statusRequest (src : Addr) (tag : BitVec 16) (p : Part) : Part := answerOk src tag (statusValues p) p

/-- R187: the answer is built, then the capture is unfrozen. -/
def errorReadRequest (src : Addr) (tag : BitVec 16) (p : Part) : Part :=
  (answerOk src tag (errorValues p) p).onTm fun m => { m with captureFrozen := false }

/-- R188. -/
def moveReadRequest (src : Addr) (tag : BitVec 16) (fields : List Byte) (p : Part) : Part :=
  let t := (byteAt fields 0).toNat
  if t < 1 ∨ 192 < t then answerRefused src tag Why.range p
  else
    let (w, p) := readTurbineA .ma t p
    finishEvent (answerOk src tag (moveReadValues t w p) p)

/-- R196. -/
def snapshotRequest (src : Addr) (tag : BitVec 16) (fields : List Byte) (p : Part) : Part :=
  if p.ma.mode = .through then answerRefused src tag Why.notEngaged p
  else
    let rows := maskedRows p (maskOf fields)
    let fresh := rows.filter fun r => (latchAt p r).isNone
    let old := rows.filter fun r => (latchAt p r).isSome
    answerOk src tag [be24 (maskFrom fresh), be24 (maskFrom old)] (rows.foldl latchRow p)

/-- R197. -/
def snapshotReadRequest (src : Addr) (tag : BitVec 16) (fields : List Byte) (p : Part) : Part :=
  let rows := (List.range 24).filter fun r => (maskOf fields).getLsbD r && (latchAt p r).isSome
  let values := rows.map fun r => optItem (latchBytes r) (latchAt p r)
  answerOk src tag values (rows.foldl (fun p r => setLatch r none p) p)

/-! ### Loads (R190 to R194) -/

/-- The table a LOAD-BEGIN names (10.6); `none` for a code above 3. -/
def loadTable (code page : Byte) : Option Table :=
  match code.toNat with
  | 0 => some .config
  | 1 => some .turbine
  | 2 => some (.page page.toNat)
  | 3 => some .sectorMap
  | _ => none

/-- R190 condition 2. -/
def loadRangeBad (t : Table) (first count : Nat) : Bool :=
  (match t with
    | .page n => decide (7 < n)
    | _ => false) || decide (count = 0) || decide (tableSize t < first + count)

/-- R190 condition 3. -/
def loadSequencing (t : Table) (p : Part) : Bool :=
  (decide (t = .config) || decide (t = .turbine)) &&
    (decide (p.ma.mode = .engaged) || (decide (p.ma.mode = .hold) && !p.se.bursts.isEmpty))

/-- R190 condition 4. -/
def loadTableInUse (t : Table) (p : Part) : Bool :=
  match t with
  | .page n => decide (pageValidity p n = .active) ||
      (match p.rsq.switch with
        | some sw => decide (sw.target = n)
        | none => false)
  | _ => false

/-- A context is OPEN. -/
def openLoad (p : Part) : Option LoadCtx :=
  match p.ma.load with
  | some c => if c.ended = none then some c else none
  | none => none

/-- R18, R19, R190: the table goes LOADING; a page's change reaches WRU's plan check (R36). -/
def markLoading (t : Table) (p : Part) : Part :=
  match t with
  | .config => setConfigValidity .loading p
  | .turbine => setTurbineValidity .loading p
  | .page n => planCheck (setPageValidity n .loading p)
  | .sectorMap => p

/-- R190: the context of an accepted load. -/
def freshLoad (t : Table) (first count : Nat) : LoadCtx :=
  { table := t, first := first, count := count, received := 0, expectedSeq := 0, crc := 0,
    idle := .running 50, ended := none, mapClamped := 0 }

/-- R190, its fields read. -/
def beginLoad (src : Addr) (tag : BitVec 16) (t : Table) (first count : Nat) (p : Part) : Part :=
  if (openLoad p).isSome then answerBusy src tag p
  else if loadRangeBad t first count then answerRefused src tag Why.range p
  else if loadSequencing t p then answerRefused src tag Why.sequencing p
  else if loadTableInUse t p then answerRefused src tag Why.tableInUse p
  else
    let p := p.onMa fun m => { m with load := some (freshLoad t first count) }
    finishEvent (answerOk src tag [] (markLoading t p))

/-- R190. -/
def loadBeginRequest (src : Addr) (tag : BitVec 16) (fields : List Byte) (p : Part) : Part :=
  match loadTable (byteAt fields 0) (byteAt fields 1) with
  | none => answerRefused src tag Why.malformed p
  | some t => beginLoad src tag t (pairAt fields 2).toNat (pairAt fields 4).toNat p

/-- R185 check 1 for LOAD-DATA: a sequence byte and exactly 4 bytes for each of 1..48 words. -/
def loadDataWellFormed (fields : List Byte) : Bool :=
  decide (5 ≤ fields.length) && decide (fields.length ≤ 193) && decide ((fields.length - 1) % 4 = 0)

/-- R191: the words are written, folded into the CRC, and counted; the idle timer is loaded again. -/
def takeLoadData (c : LoadCtx) (bytes : List Byte) (p : Part) : Part :=
  let words := wordsOf bytes
  let clamped := match c.table with
    | .sectorMap => (words.map mapClampCount).sum
    | _ => 0
  let p := p.onMa fun m =>
    { m with load := some { c with received := c.received + words.length,
                                   expectedSeq := c.expectedSeq + 1,
                                   crc := crc16 c.crc bytes, idle := .running 50,
                                   mapClamped := c.mapClamped + clamped } }
  writeLoadWords c.table (c.first + c.received) words p

/-- R191. -/
def loadDataRequest (src : Addr) (tag : BitVec 16) (fields : List Byte) (p : Part) : Part :=
  if loadDataWellFormed fields then
    match openLoad p with
    | none => answerRefused src tag Why.noLoad p
    | some c =>
      let bytes := fields.drop 1
      if byteAt fields 0 ≠ c.expectedSeq then
        finishEvent (answerRefused src tag (loadErrorCode .sequence) (endLoadOnError c .sequence p))
      else if c.count < c.received + (wordsOf bytes).length then
        finishEvent (answerRefused src tag (loadErrorCode .overrun) (endLoadOnError c .overrun p))
      else finishEvent (takeLoadData c bytes p)
  else answerRefused src tag Why.malformed p

/-- R157: a deferred leave is carried out once the table is VALID. -/
def deferredLeave (p : Part) : Part :=
  if p.ma.exitDeferred = true ∧ p.ma.mode = .hold ∧ loadHoldsMode p = false then
    finishEvent (carryOutLeave p)
  else p

/-- R192: the answer to a load whose clamps ran. -/
def answerOutcome (src : Addr) (tag : BitVec 16) (o : LoadOutcome) (p : Part) : Part :=
  match o with
  | .valid n => answerOk src tag [num1 0, num1 n] p
  | .checkFailed n => answerFailed src tag Why.checkFailed [num1 Why.checkFailed, num1 n] p
  | .integrity n => answerFailed src tag Why.integrity [num1 Why.integrity, num1 n] p
  | .failed e => answerFailed src tag (loadErrorCode e) [] p

/-- R192: LOAD-END with an OPEN context. -/
def closeLoad (src : Addr) (tag : BitVec 16) (crc : BitVec 16) (c : LoadCtx) (p : Part) : Part :=
  let p := p.onMa fun m => { m with load := none }
  if c.received < c.count then
    finishEvent (answerFailed src tag (loadErrorCode .short) []
      (setLastLoad c.table (.failed .short) (failTable c p)))
  else if crc ≠ c.crc then
    finishEvent (answerFailed src tag (loadErrorCode .crc) []
      (setLastLoad c.table (.failed .crc) (failTable c p)))
  else
    let (o, p) := endLoad c p
    deferredLeave (finishEvent (answerOutcome src tag o (setLastLoad c.table o p)))

/-- R192. -/
def loadEndRequest (src : Addr) (tag : BitVec 16) (fields : List Byte) (p : Part) : Part :=
  match p.ma.load with
  | none => answerRefused src tag Why.noLoad p
  | some c =>
    match c.ended with
    | some e => answerFailed src tag (loadErrorCode e) [] (p.onMa fun m => { m with load := none })
    | none => closeLoad src tag (pairAt fields 0) c p

/-- R194. -/
def loadAbortRequest (src : Addr) (tag : BitVec 16) (p : Part) : Part :=
  match openLoad p with
  | none => answerRefused src tag Why.noLoad p
  | some c =>
    let p := p.onMa fun m => { m with load := none }
    finishEvent (answerOk src tag [] (setLastLoad c.table (.failed .aborted) (failTable c p)))

/-! ### Mode requests (R150, R154, R156, R158) -/

/-- R150 condition 4: the VALID page the active sector's entry names. -/
def engagePage (p : Part) : Option Nat × Part :=
  match p.wru.activeSector with
  | none => (none, p)
  | some a =>
    let (entry, p) := readEntry .ma a p
    match entryPage entry with
    | some n => (if pageValidity p n = .valid then some n else none, p)
    | none => (none, p)

/-- R150. The sector map is read for condition 4 only when the first three hold (log entry 61). A fault met by that
read may have stopped WRU (R23) before the part is ENGAGED (log entry 38). -/
def engageRequest (src : Addr) (tag : BitVec 16) (p : Part) : Part :=
  if sequencing p then answerOk src tag [] p
  else if p.tm.config ≠ .valid then answerRefused src tag Why.configInvalid p
  else if p.tm.turbine ≠ .valid then answerRefused src tag Why.turbineInvalid p
  else if windFresh p = false then answerRefused src tag Why.windStale p
  else
    match engagePage p with
    | (none, p) => finishEvent (answerRefused src tag Why.noPlan p)
    | (some n, p) => finishEvent (answerOk src tag [] (takeEngage n (guardWru p)))

/-- R158. -/
def disengageRequest (src : Addr) (tag : BitVec 16) (p : Part) : Part :=
  if sequencing p then finishEvent (answerOk src tag [] (returnToThrough .disengage p))
  else answerOk src tag [] p

/-- R154. -/
def holdRequest (src : Addr) (tag : BitVec 16) (p : Part) : Part :=
  match p.ma.mode with
  | .through => answerRefused src tag Why.notEngaged p
  | .engaged => finishEvent (answerOk src tag [] (enterHold .command p))
  | .hold => answerOk src tag []
      (p.onMa fun m => { m with holdCause := some .command, exitDeferred := false })

/-- R156. -/
def releaseRequest (src : Addr) (tag : BitVec 16) (p : Part) : Part :=
  match p.ma.mode with
  | .through => answerRefused src tag Why.notEngaged p
  | .engaged => answerOk src tag [] p
  | .hold =>
    if p.ma.exitDeferred then answerOk src tag [] p
    else finishEvent (answerOk src tag [] (leaveHold p))

/-! ### CLEAR and RESET (R116, R198, R199) -/

/-- R198 kind 0: every sticky flag and every overrun-alerted mark. -/
def clearFlags (p : Part) : Part :=
  (p.onMa fun m => { m with sticky := 0 }).onRau fun u =>
    { u with records := u.records.map fun rec => { rec with overrunAlerted := false } }

/-- R198, both kinds. -/
def clearRequest (src : Addr) (tag : BitVec 16) (fields : List Byte) (p : Part) : Part :=
  let t := (byteAt fields 1).toNat
  match (byteAt fields 0).toNat with
  | 0 => answerOk src tag [] (clearFlags p)
  | 1 =>
    if t < 1 ∨ 192 < t then answerRefused src tag Why.range p
    else if condOf p t = .suspect then answerOk src tag [] (clearSuspect t p)
    else answerRefused src tag Why.notSuspect p
  | _ => answerRefused src tag Why.malformed p

/-- R199, R161, R22, R174: a frame in progress at a port is dropped, TI's queues are emptied, the pending
entry is written, an open load is aborted, the blocks are reset, and the OK answer alone is left in
the list (log entry 15). -/
def resetRequest (src : Addr) (tag : BitVec 16) (cutC cutF : Bool) (p : Part) : Part :=
  let p := emptyQueues (cutFrames cutC cutF p)
  finishEvent (answerOk src tag [] (warmReset (abortLoadAtReset (writePendingEntry p))))

/-! ### Taking a request (R184, R185) -/

/-- R184: with four answers waiting the request is dropped unanswered, with no effect. -/
def takeRequest (g : Part → Part) (p : Part) : Part :=
  if p.ma.answers.length < 4 then g p
  else p.onMa fun m => { m with requestsDropped := m.requestsDropped + 1 }

/-- The request a kind code names (10.6); no frame is in progress when a RESET is given so (log entry 13). -/
def requestOf (kind : Byte) (src : Addr) (tag : BitVec 16) (fields : List Byte) (p : Part) : Part :=
  match kind.toNat with
  | 1 => statusRequest src tag p
  | 2 => errorReadRequest src tag p
  | 3 => needBytes 1 src tag fields (moveReadRequest src tag fields) p
  | 4 => needBytes 3 src tag fields (snapshotRequest src tag fields) p
  | 5 => needBytes 3 src tag fields (snapshotReadRequest src tag fields) p
  | 6 => needBytes 6 src tag fields (loadBeginRequest src tag fields) p
  | 7 => loadDataRequest src tag fields p
  | 8 => needBytes 2 src tag fields (loadEndRequest src tag fields) p
  | 9 => loadAbortRequest src tag p
  | 10 => engageRequest src tag p
  | 11 => disengageRequest src tag p
  | 12 => holdRequest src tag p
  | 13 => releaseRequest src tag p
  | 14 => needBytes 2 src tag fields (clearRequest src tag fields) p
  | 15 => resetRequest src tag false false p
  | _ => answerRefused src tag Why.malformed p

/-- R184: an MREQ diverted to MA: the length check, then the answer list, then the request. -/
def takeMreq (src : Addr) (payload : List Byte) (p : Part) : Part :=
  if payload.length < 3 then p.onMa fun m => { m with requestsMalformed := m.requestsMalformed + 1 }
  else
    takeRequest (requestOf (byteAt payload 0) src (pairAt payload 1) (payload.drop 3)) p

end Sys2Proof.Machine
end

