-- ==== Sys2Proof/Machine/Trunk.lean ====
section
/-! DEFINITION. The Trunk Interface (chapter 10): arrivals at both ports, classification, frames leaving, and the
meanings of the frame commands. -/

namespace Sys2Proof.Machine

/-- R174: a frame is received at a port, whatever the checks give. -/
def countReceived (port : Port) (p : Part) : Part :=
  onPort port (fun ps => { ps with received := ps.received + 1 }) p

/-! ### The C port (R176, R177) -/

def countDiverted (p : Part) : Part := p.onTi fun t => { t with aimsDiverted := t.aimsDiverted + 1 }

def countAimMalformed (p : Part) : Part := p.onTi fun t => { t with aimsMalformed := t.aimsMalformed + 1 }

def countForwardedThrough (p : Part) : Part :=
  p.onTi fun t => { t with aimsForwardedThrough := t.aimsForwardedThrough + 1 }

/-- R176 row 1: the destination has a forward-list or in-flight entry. -/
def waitsBehindForward (p : Part) (dst : Addr) : Bool :=
  forwardListHas p dst || p.ms.inFlight.contains dst

/-- R176 rows 1, 4 and 5, R177. An AIM to the part's own address meets row 5 (log entry 43). -/
def aimAtC (f : Frame) (p : Part) : Part :=
  if waitsBehindForward p f.dst then
    if f.payload.length < 6 then countAimMalformed p
    else finishEvent (routeBehindForward (rawAim f) (countDiverted p))
  else
    match diversion f.dst p with
    | (some (t, r), p) =>
      if f.payload.length < 6 then finishEvent (countAimMalformed p)
      else finishEvent (intake t r (setpointOf (rawAim f)) (countAimClamp (rawAim f) (countDiverted p)))
    | (none, p) => finishEvent (forwardFrame .c f (countForwardedThrough p))

/-- R176: the first row that applies. -/
def classifyC (f : Frame) (p : Part) : Part :=
  if f.kind = kindAim then aimAtC f p
  else if f.kind = kindMreq ∧ f.dst = ownAddress p then takeMreq f.src f.payload p
  else if f.kind = kindMreq ∧ f.dst = broadcast then
    p.onTi fun t => { t with mreqsDroppedBroadcast := t.mreqsDroppedBroadcast + 1 }
  else forwardFrame .c f p

/-- R152, R176: a valid frame at the C port is handled, then its arrival reaches MA. -/
def receiveC (f : Frame) (p : Part) : Part := arrival (classifyC f (countReceived .c p))

/-- A management request to the part: its arrival, with the request taken as `g`. -/
def requestAtC (g : Part → Part) (p : Part) : Part := arrival (takeRequest g (countReceived .c p))

/-! ### The F port (R178) -/

/-- R178: the copies of a STATE reach SE, RAU and, for a reference turbine, WRU, as separate events, in
this order; a release that TI's own reads have handed MA waits for the end of the first (log entry
19). The four RefTurbine fields are read first, with reader TI (log entry 52), and WRU reads none of them (log
entry 58). -/
def copyState (t : Nat) (rep : Report) (p : Part) : Part :=
  let (reference, p) := namedReference .ti t p
  let p := finishEvent (seReport t rep p)
  let p := finishEvent (rauReport t rep p)
  if reference then finishEvent (wruReport rep p) else p

/-- R178: a STATE is forwarded, and copied when well formed and mapped. -/
def stateAtF (f : Frame) (p : Part) : Part :=
  let p := forwardFrame .f f p
  if stateWellFormed f.payload then
    match mapAddress f.src p with
    | (some t, p) => copyState t (reportOf f.payload) p
    | (none, p) => finishEvent p
  else p.onTi fun t => { t with stateMalformed := t.stateMalformed + 1 }

def classifyF (f : Frame) (p : Part) : Part :=
  if f.kind = kindState then stateAtF f p
  else if f.kind = kindMreq ∧ (f.dst = ownAddress p ∨ f.dst = broadcast) then
    p.onTi fun t => { t with mreqsDroppedAtF := t.mreqsDroppedAtF + 1 }
  else forwardFrame .f f p

/-- R178: a valid frame at the F port. -/
def receiveF (f : Frame) (p : Part) : Part := classifyF f (countReceived .f p)

/-- A valid frame at a port. -/
def receiveAt (port : Port) (f : Frame) (p : Part) : Part :=
  match port with
  | .c => receiveC f p
  | .f => receiveF f p

/-- R174: the bytes of a frame received at a port. -/
def receiveBytes (port : Port) (bytes : List Byte) (p : Part) : Part :=
  match receiveCheck bytes with
  | .bad => onPort port (fun ps => { ps with droppedBad := ps.droppedBad + 1 }) (countReceived port p)
  | .long => onPort port (fun ps => { ps with droppedLong := ps.droppedLong + 1 }) (countReceived port p)
  | .valid f => receiveAt port f p

/-! ### Frames leaving (R180 to R182) -/

/-- R52, R182: what the departure of an insertion-queue frame is reported as. -/
def reportDeparture (q : QFrame) (p : Part) : Part :=
  match q.origin with
  | .forwarded trailing =>
    let p := p.onMs fun m => { m with inFlight := m.inFlight.erase q.frame.dst }
    if trailing then countForwardedThrough p else p
  | _ => p

/-- R181: the frame being sent at a port has left it; its place frees and the arbiter chooses the
next. -/
def frameLeft (port : Port) (p : Part) : Part :=
  match (portOf p port).sending with
  | none => p
  | some .through =>
    let p := onPort port (fun ps => chooseSource { ps with through := ps.through.drop 1, sending := none }) p
    onPort (otherPort port) (fun ps => { ps with forwarded := ps.forwarded + 1 }) p
  | some .insertion =>
    let head := (portOf p port).insertion.head?
    let p := onPort port (fun ps => chooseSource
      { ps with insertion := ps.insertion.drop 1, sending := none, inserted := ps.inserted + 1 }) p
    match head with
    | some q => reportDeparture q p
    | none => p

/-! ### Meanings of the frame commands -/

/-- DROPPED_FRAME (R174). -/
def execDroppedFrame (port : Port) (bytes : List Byte) (s : State) : Host.Outcome State Fault Refusal :=
  s.does (receiveBytes port bytes)

/-- AIM (R176). -/
def execAim (dst src : Addr) (payload : List Byte) (s : State) : Host.Outcome State Fault Refusal :=
  s.does (receiveC { dst := dst, src := src, kind := kindAim, payload := payload })

/-- STATE (R178). -/
def execState (dst src : Addr) (payload : List Byte) (s : State) : Host.Outcome State Fault Refusal :=
  s.does (receiveF { dst := dst, src := src, kind := kindState, payload := payload })

/-- FORWARDED_FRAME (R179). -/
def execForwardedFrame (port : Port) (frame : Frame) (s : State) : Host.Outcome State Fault Refusal :=
  s.does (receiveAt port frame)

/-- MREQ_DROPPED_BROADCAST (R176). -/
def execMreqDroppedBroadcast (src : Addr) (payload : List Byte) (s : State) :
    Host.Outcome State Fault Refusal :=
  s.does (receiveC { dst := broadcast, src := src, kind := kindMreq, payload := payload })

/-- MREQ_DROPPED_AT_F (R178). -/
def execMreqDroppedAtF (dst src : Addr) (payload : List Byte) (s : State) :
    Host.Outcome State Fault Refusal :=
  s.does (receiveF { dst := dst, src := src, kind := kindMreq, payload := payload })

/-- MREQ_MALFORMED (R184). -/
def execMreqMalformed (src : Addr) (payload : List Byte) (s : State) :
    Host.Outcome State Fault Refusal :=
  s.does fun p => arrival (takeMreq src payload (countReceived .c p))

/-- FRAME_SENT (R181). -/
def execFrameSent (port : Port) (s : State) : Host.Outcome State Fault Refusal := s.does (frameLeft port)

/-- COLD_RESET (R21, R174): a frame in progress is counted before the counters are set to 0 (log entry
13). -/
def execColdReset (start : ColdStart) (s : State) : Host.Outcome State Fault Refusal :=
  s.does fun p => coldReset start.strap (cutFrames start.cutC start.cutF p)

end Sys2Proof.Machine
end

