-- ==== Sys2Proof/Machine/Management.lean ====
section
/-! DEFINITION. The meanings of the management requests: each arrives at the C port addressed to the part (R176
row 2), is taken if the answer list has room (R184), and its arrival then reaches MA (R152). -/

namespace Sys2Proof.Machine

/-- STATUS (R186). -/
def execStatus (src : Addr) (tag : BitVec 16) (_fields : List Byte) (s : State) :
    Host.Outcome State Fault Refusal :=
  s.does (requestAtC (statusRequest src tag))

/-- ERROR_READ (R187). -/
def execErrorRead (src : Addr) (tag : BitVec 16) (_fields : List Byte) (s : State) :
    Host.Outcome State Fault Refusal :=
  s.does (requestAtC (errorReadRequest src tag))

/-- MOVE_READ (R188). -/
def execMoveRead (src : Addr) (tag : BitVec 16) (fields : List Byte) (s : State) :
    Host.Outcome State Fault Refusal :=
  s.does (requestAtC (needBytes 1 src tag fields (moveReadRequest src tag fields)))

/-- SNAPSHOT (R196). -/
def execSnapshot (src : Addr) (tag : BitVec 16) (fields : List Byte) (s : State) :
    Host.Outcome State Fault Refusal :=
  s.does (requestAtC (needBytes 3 src tag fields (snapshotRequest src tag fields)))

/-- SNAPSHOT_READ (R197). -/
def execSnapshotRead (src : Addr) (tag : BitVec 16) (fields : List Byte) (s : State) :
    Host.Outcome State Fault Refusal :=
  s.does (requestAtC (needBytes 3 src tag fields (snapshotReadRequest src tag fields)))

/-- LOAD_BEGIN (R190). -/
def execLoadBegin (src : Addr) (tag : BitVec 16) (fields : List Byte) (s : State) :
    Host.Outcome State Fault Refusal :=
  s.does (requestAtC (needBytes 6 src tag fields (loadBeginRequest src tag fields)))

/-- LOAD_DATA (R191). -/
def execLoadData (src : Addr) (tag : BitVec 16) (fields : List Byte) (s : State) :
    Host.Outcome State Fault Refusal :=
  s.does (requestAtC (loadDataRequest src tag fields))

/-- LOAD_END (R192). -/
def execLoadEnd (src : Addr) (tag : BitVec 16) (fields : List Byte) (s : State) :
    Host.Outcome State Fault Refusal :=
  s.does (requestAtC (needBytes 2 src tag fields (loadEndRequest src tag fields)))

/-- LOAD_ABORT (R194). -/
def execLoadAbort (src : Addr) (tag : BitVec 16) (_fields : List Byte) (s : State) :
    Host.Outcome State Fault Refusal :=
  s.does (requestAtC (loadAbortRequest src tag))

/-- ENGAGE (R150, R151). -/
def execEngage (src : Addr) (tag : BitVec 16) (_fields : List Byte) (s : State) :
    Host.Outcome State Fault Refusal :=
  s.does (requestAtC (engageRequest src tag))

/-- DISENGAGE (R158). -/
def execDisengage (src : Addr) (tag : BitVec 16) (_fields : List Byte) (s : State) :
    Host.Outcome State Fault Refusal :=
  s.does (requestAtC (disengageRequest src tag))

/-- HOLD (R154). -/
def execHold (src : Addr) (tag : BitVec 16) (_fields : List Byte) (s : State) :
    Host.Outcome State Fault Refusal :=
  s.does (requestAtC (holdRequest src tag))

/-- RELEASE (R156). -/
def execRelease (src : Addr) (tag : BitVec 16) (_fields : List Byte) (s : State) :
    Host.Outcome State Fault Refusal :=
  s.does (requestAtC (releaseRequest src tag))

/-- CLEAR_STICKY_FLAGS (R198): a CLEAR as its fields read. -/
def execClearStickyFlags (src : Addr) (tag : BitVec 16) (fields : List Byte) (s : State) :
    Host.Outcome State Fault Refusal :=
  s.does (requestAtC (needBytes 2 src tag fields (clearRequest src tag fields)))

/-- CLEAR_SUSPECT_CONDITION (R116, R198): a CLEAR as its fields read. -/
def execClearSuspectCondition (src : Addr) (tag : BitVec 16) (fields : List Byte) (s : State) :
    Host.Outcome State Fault Refusal :=
  s.does (requestAtC (needBytes 2 src tag fields (clearRequest src tag fields)))

/-- RESET (R199, R174). -/
def execReset (src : Addr) (tag : BitVec 16) (body : ResetBody) (s : State) :
    Host.Outcome State Fault Refusal :=
  s.does (requestAtC (resetRequest src tag body.cutC body.cutF))

/-- UNKNOWN_REQUEST_KIND (R185): an MREQ to the part as its kind reads. -/
def execUnknownRequestKind (kind : Byte) (src : Addr) (tag : BitVec 16) (fields : List Byte)
    (s : State) : Host.Outcome State Fault Refusal :=
  s.does (requestAtC (requestOf kind src tag fields))

end Sys2Proof.Machine
end

