-- ==== Sys2Proof/Machine/Arbiters.lean ====
section
/-! DEFINITION. The steps the part takes of itself when room or permission is there: hand-overs into the
insertion queues, step releases, burst starts, round starts, openings (R52, R66, R67, R99, R101, R126,
R184). A command whose conditions do not hold changes nothing (log entry 1). -/

namespace Sys2Proof.Machine

/-- R52: MS hands its oldest forward-list entry to TI while a place is free. -/
def handForward (p : Part) : Part :=
  match p.ms.forward with
  | [] => p
  | e :: rest =>
    if 0 < freePlaces p .f then
      (insertFrame .f { frame := aimFrame e.sp, origin := .forwarded e.trailing } p).onMs fun m =>
        { m with forward := rest, inFlight := m.inFlight ++ [e.sp.dst] }
    else p

/-- R99: a place is offered to the waiting bursts in ascending turbine number. -/
def grantStep (p : Part) : Part :=
  match waitingBursts p with
  | [] => p
  | t :: l => finishEvent (offerPlace (t :: l) p)

/-- R99: a run of SE's arbiter: the free places go to the RUNNING bursts that wait, then bursts start until none
can. -/
def grantBursts (p : Part) : Part := finishEvent (startBursts startGrants (serveBursts stepGrants p))

/-- R125: the first due round that can start, in ENGAGED and HOLD. -/
def grantRound (p : Part) : Part :=
  if sequencing p then finishEvent (startFirstRound (rowIndices p) p) else p

/-- Places the parts of an answer in the C-bound queue, in part order. -/
def insertParts (dst : Addr) (parts : List (List Byte)) (p : Part) : Part :=
  parts.foldl (fun p l =>
    insertFrame .c { frame := responseFrame (ownAddress p) dst l, origin := .response } p) p

/-- R184: MA hands over its oldest answer when places are free for all its parts. -/
def handAnswer (p : Part) : Part :=
  match p.ma.answers with
  | [] => p
  | a :: rest =>
    if a.parts.length ≤ freePlaces p .c then
      (insertParts a.dst a.parts p).onMa fun m => { m with answers := rest }
    else p

/-- R66: a run of the arbiter, which grants until no row is eligible. -/
def arbiterRun (p : Part) : Part := finishEvent (runArbiter 24 p)

/-- R66: the time now is row `r`'s hold-until, and the row is CLOSED. -/
def atHoldUntil (p : Part) (r : Nat) : Bool :=
  match rowAt p r with
  | some row => decide (row.state = .closed) && decide (p.now = row.holdUntil)
  | none => false

/-- R66: the time now is row `r`'s last opening plus RowCycle, and the row is CLOSED. -/
def atRowCycle (p : Part) (r : Nat) : Bool :=
  match rowAt p r with
  | some row =>
    decide (row.state = .closed) &&
      (match row.lastOpening with
        | some t => decide (p.now = t + BitVec.ofNat 32 (deliveredField p Field.rowCycle))
        | none => false)
  | none => false

/-! ### Meanings -/

/-- FORWARD_ENTRY_HANDOVER (R52). -/
def execForwardEntryHandover (s : State) : Host.Outcome State Fault Refusal := s.does handForward

/-- STEP_RELEASE (R101, R99). -/
def execStepRelease (s : State) : Host.Outcome State Fault Refusal := s.does grantStep

/-- BURST_START (R98 to R100). -/
def execBurstStart (s : State) : Host.Outcome State Fault Refusal := s.does grantBursts

/-- ROUND_START (R125 to R127). -/
def execRoundStart (s : State) : Host.Outcome State Fault Refusal := s.does grantRound

/-- ANSWER_HANDOVER (R184). -/
def execAnswerHandover (s : State) : Host.Outcome State Fault Refusal := s.does handAnswer

/-- OPENING (R67). -/
def execOpening (s : State) : Host.Outcome State Fault Refusal :=
  s.does fun p => finishEvent (grantOpening p)

/-- HOLD_UNTIL_REACHED (R66). -/
def execHoldUntilReached (row : Nat) (s : State) : Host.Outcome State Fault Refusal :=
  s.does fun p => if atHoldUntil p row then arbiterRun p else p

/-- ROW_CYCLE_ELAPSED (R66): RSQ reads RowCycle as the time comes. -/
def execRowCycleElapsed (row : Nat) (s : State) : Host.Outcome State Fault Refusal :=
  s.does fun p => if atRowCycle p row then arbiterRun (readConfig .rsq Field.rowCycle p).2 else p

end Sys2Proof.Machine
end

