-- ==== Sys2Proof/Machine/Expiries.lean ====
section
/-! DEFINITION. The expiries of the part's timers and of the times RSQ holds (R1, R29, R31, R34, R61, R69, R71,
R79, R106, R110, R121, R130, R144, R152, R171, R193). An expiry is taken when its timer has reached
zero; a command for a timer that has not changes nothing (log entry 1). -/

namespace Sys2Proof.Machine

/-! ### Times of RSQ -/

/-- R61: the time now has passed `t` by 1,073,741,824 ds. -/
def ageBound (now t : Count) : Bool :=
  decide (1073741824 ≤ (now - t).toNat) && decide ((now - t).toNat < 2147483648)

/-- R61 for a hold-until. -/
def boundHoldUntil (now : Count) (row : RowRec) : RowRec :=
  if ageBound now row.holdUntil then { row with holdUntil := now } else row

/-- R61 for a last opening. -/
def boundLastOpening (now : Count) (row : RowRec) : RowRec :=
  match row.lastOpening with
  | some t => if ageBound now t then { row with lastOpening := none } else row
  | none => row

/-- R69: the oldest entry has reached WindowLength of age. -/
def windowDue (p : Part) : Bool :=
  match p.rsq.window with
  | [] => false
  | t :: _ => decide (deliveredField p Field.windowLength ≤ windowAge p t)

/-- R69: the entries whose age has reached WindowLength leave. -/
def expireWindow (p : Part) : Part :=
  let (length, p) := readConfig .rsq Field.windowLength p
  p.onRsq fun q => { q with window := q.window.filter fun t => decide (windowAge p t < length) }

/-! ### Wind -/

/-- R29: the wind becomes stale. -/
def freshnessExpired (p : Part) : Part :=
  raiseAlert .windStale .nothing (p.onWru fun w => { w with freshness := .stopped })

/-- R31: the gust pause ends. -/
def gustExpired (p : Part) : Part := gustEnd (p.onWru fun w => { w with gust := .stopped })

/-! ### Rows, bursts, rounds: which are due -/

/-- The OPEN row's grace timer has reached zero. -/
def graceDue (p : Part) (r : Nat) : Bool :=
  match rowAt p r with
  | some row => decide (row.state = .opened) && row.grace.isDue
  | none => false

/-- The SETTLING row's settle timer has reached zero. -/
def settleDue (p : Part) (r : Nat) : Bool :=
  match rowAt p r with
  | some row => decide (row.state = .settling) && row.settle.isDue
  | none => false

/-- The oldest outstanding step of the burst has a timer at zero. -/
def stepDue (b : Burst) : Bool :=
  match b.steps with
  | s :: _ => s.timer.isDue
  | [] => false

def timeoutTurbine (t : Nat) (p : Part) : Part :=
  match burstOf p t with
  | some b => if stepDue b then finishEvent (timeoutStep t b p) else p
  | none => p

def lockTurbine (t : Nat) (p : Part) : Part :=
  match burstOf p t with
  | some b => if b.lockTimer.isDue then finishEvent (lockExpired t p) else p
  | none => p

def realignRow (r : Nat) (p : Part) : Part :=
  match realignAt p r with
  | some u => if u.timer.isDue then finishEvent (realignExpired r u p) else p
  | none => p

def roundRow (r : Nat) (p : Part) : Part :=
  match (realignAt p r).bind (·.round) with
  | some rd => if rd.timer.isDue then finishEvent (completeRound r p) else p
  | none => p

def switchLimit (p : Part) : Part :=
  match p.rsq.switch with
  | some sw => if sw.limit.isDue then finishEvent (forceSwitch sw.target p) else p
  | none => p

def loadIdle (p : Part) : Part :=
  match openLoad p with
  | some c => if c.idle.isDue then finishEvent (endLoadOnError c .timeout p) else p
  | none => p

/-! ### The scrub (R171) -/

/-- A table is LOADING; the sector map never is. -/
def tableLoading (p : Part) : Table → Bool
  | .config => decide (p.tm.config = .loading)
  | .turbine => decide (p.tm.turbine = .loading)
  | .page n => decide (pageValidity p n = .loading)
  | .sectorMap => false

/-- R171 step 1: past the words of a table that is LOADING. -/
def scrubAddress (p : Part) : Nat :=
  let t := (placeOf p.tm.scrubPointer).1
  if tableLoading p t then (tableBase t + tableSize t) % 1956 else p.tm.scrubPointer

/-- A sector-map word read by the scrub; an uncorrectable one makes WRU run its plan check (R169). -/
def scrubMapWord (w : Nat) (p : Part) : Part :=
  match checkedRead .scrub (1952 + w) p with
  | (some _, p) => p
  | (none, p) => planCheck (writeWord (1952 + w) allNone p)

/-- A page word read by the scrub; a page that leaves VALID is handed to WRU and RSQ (R168). -/
def scrubPageWord (n w : Nat) (p : Part) : Part :=
  handPageChange n (pageValidity p n) (readPageWord .scrub n w p).2

/-- R171 step 2. -/
def scrubWord (a : Nat) (p : Part) : Part :=
  match placeOf a with
  | (.config, w) => (readConfig .scrub w p).2
  | (.turbine, w) =>
    if w % 2 = 0 then (readTurbineA .scrub (w / 2 + 1) p).2 else (readTurbineB .scrub (w / 2 + 1) p).2
  | (.page n, w) => scrubPageWord n w p
  | (.sectorMap, w) => scrubMapWord w p

/-- R171. -/
def scrubStep (p : Part) : Part :=
  let a := scrubAddress p
  let p := scrubWord a p
  let p := p.onTm fun m => { m with scrubPointer := (a + 1) % 1956 }
  let (interval, p) := readConfig .scrub Field.scrubInterval p
  p.onTm fun m => { m with scrubTimer := .running interval }

/-! ### Meanings -/

/-- HOLD_UNTIL_AGE_BOUND (R61). -/
def execHoldUntilAgeBound (row : Nat) (s : State) : Host.Outcome State Fault Refusal :=
  s.does fun p => modifyRow row (boundHoldUntil p.now) p

/-- LAST_OPENING_AGE_BOUND (R61). -/
def execLastOpeningAgeBound (row : Nat) (s : State) : Host.Outcome State Fault Refusal :=
  s.does fun p => modifyRow row (boundLastOpening p.now) p

/-- WINDOW_ENTRY_EXPIRY (R69). -/
def execWindowEntryExpiry (s : State) : Host.Outcome State Fault Refusal :=
  s.does fun p => if windowDue p then finishEvent (expireWindow p) else p

/-- FRESHNESS_EXPIRY (R29). -/
def execFreshnessExpiry (s : State) : Host.Outcome State Fault Refusal :=
  s.does fun p => if p.wru.freshness.isDue then freshnessExpired p else p

/-- GUST_TIMER_EXPIRY (R31). -/
def execGustTimerExpiry (s : State) : Host.Outcome State Fault Refusal :=
  s.does fun p => if p.wru.gust.isDue then finishEvent (gustExpired p) else p

/-- EXCURSION_EXPIRY (R34). -/
def execExcursionExpiry (s : State) : Host.Outcome State Fault Refusal :=
  s.does fun p => if p.wru.excursion.isDue then finishEvent (excursionExpired p) else p

/-- GRACE_EXPIRY (R71). -/
def execGraceExpiry (row : Nat) (s : State) : Host.Outcome State Fault Refusal :=
  s.does fun p => if graceDue p row then finishEvent (drainRow row p) else p

/-- SETTLE_EXPIRY (R79). -/
def execSettleExpiry (row : Nat) (s : State) : Host.Outcome State Fault Refusal :=
  s.does fun p => if settleDue p row then finishEvent (closeRow row p) else p

/-- STEP_TIMEOUT (R106). -/
def execStepTimeout (turbine : Nat) (s : State) : Host.Outcome State Fault Refusal :=
  s.does (timeoutTurbine turbine)

/-- LOCK_EXPIRY (R110). -/
def execLockExpiry (turbine : Nat) (s : State) : Host.Outcome State Fault Refusal :=
  s.does (lockTurbine turbine)

/-- REALIGN_EXPIRY (R121, R123, R132). -/
def execRealignExpiry (row : Nat) (s : State) : Host.Outcome State Fault Refusal :=
  s.does (realignRow row)

/-- ROUND_TIMER_EXPIRY (R130). -/
def execRoundTimerExpiry (row : Nat) (s : State) : Host.Outcome State Fault Refusal :=
  s.does (roundRow row)

/-- SWITCH_LIMIT_EXPIRY (R144). -/
def execSwitchLimitExpiry (s : State) : Host.Outcome State Fault Refusal := s.does switchLimit

/-- SILENCE_EXPIRY (R152). -/
def execSilenceExpiry (s : State) : Host.Outcome State Fault Refusal :=
  s.does fun p =>
    if p.ma.mode = .engaged ∧ p.ma.silence.isDue = true then finishEvent (enterHold .silence p) else p

/-- LOAD_IDLE_TIMEOUT (R193). -/
def execLoadIdleTimeout (s : State) : Host.Outcome State Fault Refusal := s.does loadIdle

/-- SCRUB (R171). -/
def execScrub (s : State) : Host.Outcome State Fault Refusal :=
  s.does fun p => if p.tm.scrubTimer.isDue then finishEvent (scrubStep p) else p

end Sys2Proof.Machine
end

