-- ==== Sys2Proof/Machine/Dispatch.lean ====
section
/-! DEFINITION. The one table from commands to meanings. -/

namespace Sys2Proof.Machine

def exec (i : Instr) (s : State) : Host.Outcome State Fault Refusal :=
  match i with
  | .coldReset start => Sys2Proof.Machine.execColdReset start s
  | .droppedFrame port bytes => Sys2Proof.Machine.execDroppedFrame port bytes s
  | .aim dst src payload => Sys2Proof.Machine.execAim dst src payload s
  | .state dst src payload => Sys2Proof.Machine.execState dst src payload s
  | .forwardedFrame port frame => Sys2Proof.Machine.execForwardedFrame port frame s
  | .mreqDroppedBroadcast src payload => Sys2Proof.Machine.execMreqDroppedBroadcast src payload s
  | .mreqDroppedAtF dst src payload => Sys2Proof.Machine.execMreqDroppedAtF dst src payload s
  | .mreqMalformed src payload => Sys2Proof.Machine.execMreqMalformed src payload s
  | .status src tag fields => Sys2Proof.Machine.execStatus src tag fields s
  | .errorRead src tag fields => Sys2Proof.Machine.execErrorRead src tag fields s
  | .moveRead src tag fields => Sys2Proof.Machine.execMoveRead src tag fields s
  | .snapshot src tag fields => Sys2Proof.Machine.execSnapshot src tag fields s
  | .snapshotRead src tag fields => Sys2Proof.Machine.execSnapshotRead src tag fields s
  | .loadBegin src tag fields => Sys2Proof.Machine.execLoadBegin src tag fields s
  | .loadData src tag fields => Sys2Proof.Machine.execLoadData src tag fields s
  | .loadEnd src tag fields => Sys2Proof.Machine.execLoadEnd src tag fields s
  | .loadAbort src tag fields => Sys2Proof.Machine.execLoadAbort src tag fields s
  | .engage src tag fields => Sys2Proof.Machine.execEngage src tag fields s
  | .disengage src tag fields => Sys2Proof.Machine.execDisengage src tag fields s
  | .hold src tag fields => Sys2Proof.Machine.execHold src tag fields s
  | .release src tag fields => Sys2Proof.Machine.execRelease src tag fields s
  | .clearStickyFlags src tag fields => Sys2Proof.Machine.execClearStickyFlags src tag fields s
  | .clearSuspectCondition src tag fields => Sys2Proof.Machine.execClearSuspectCondition src tag fields s
  | .reset src tag body => Sys2Proof.Machine.execReset src tag body s
  | .frameSent port => Sys2Proof.Machine.execFrameSent port s
  | .forwardEntryHandover => Sys2Proof.Machine.execForwardEntryHandover s
  | .stepRelease => Sys2Proof.Machine.execStepRelease s
  | .burstStart => Sys2Proof.Machine.execBurstStart s
  | .roundStart => Sys2Proof.Machine.execRoundStart s
  | .answerHandover => Sys2Proof.Machine.execAnswerHandover s
  | .opening => Sys2Proof.Machine.execOpening s
  | .holdUntilReached row => Sys2Proof.Machine.execHoldUntilReached row s
  | .rowCycleElapsed row => Sys2Proof.Machine.execRowCycleElapsed row s
  | .holdUntilAgeBound row => Sys2Proof.Machine.execHoldUntilAgeBound row s
  | .lastOpeningAgeBound row => Sys2Proof.Machine.execLastOpeningAgeBound row s
  | .windowEntryExpiry => Sys2Proof.Machine.execWindowEntryExpiry s
  | .freshnessExpiry => Sys2Proof.Machine.execFreshnessExpiry s
  | .gustTimerExpiry => Sys2Proof.Machine.execGustTimerExpiry s
  | .excursionExpiry => Sys2Proof.Machine.execExcursionExpiry s
  | .graceExpiry row => Sys2Proof.Machine.execGraceExpiry row s
  | .settleExpiry row => Sys2Proof.Machine.execSettleExpiry row s
  | .stepTimeout turbine => Sys2Proof.Machine.execStepTimeout turbine s
  | .lockExpiry turbine => Sys2Proof.Machine.execLockExpiry turbine s
  | .realignExpiry row => Sys2Proof.Machine.execRealignExpiry row s
  | .roundTimerExpiry row => Sys2Proof.Machine.execRoundTimerExpiry row s
  | .switchLimitExpiry => Sys2Proof.Machine.execSwitchLimitExpiry s
  | .silenceExpiry => Sys2Proof.Machine.execSilenceExpiry s
  | .loadIdleTimeout => Sys2Proof.Machine.execLoadIdleTimeout s
  | .scrub => Sys2Proof.Machine.execScrub s
  | .unknownRequestKind kind src tag fields => Sys2Proof.Machine.execUnknownRequestKind kind src tag fields s

end Sys2Proof.Machine
end

