-- ==== Sys2Proof/Machine/Idle.lean ====
section
/-! DEFINITION. What the part does on an empty queue: a step of its own that is due or possible is put into the
queue, or the time goes on by one decisecond (R1; log entries 1 and 2). -/

namespace Sys2Proof.Machine

/-! ### One decisecond (R1) -/

def tickWru (w : Wru) : Wru :=
  { w with freshness := w.freshness.tick, gust := w.gust.tick, excursion := w.excursion.tick }

def tickRow (row : RowRec) : RowRec := { row with grace := row.grace.tick, settle := row.settle.tick }

def tickSwitch (sw : SwitchRec) : SwitchRec := { sw with limit := sw.limit.tick }

def tickRsq (q : Rsq) : Rsq := { q with rows := q.rows.map tickRow, switch := q.switch.map tickSwitch }

def tickStep (x : Step) : Step := { x with timer := x.timer.tick }

def tickBurst (b : Burst) : Burst := { b with lockTimer := b.lockTimer.tick, steps := b.steps.map tickStep }

def tickSe (e : Se) : Se := { e with bursts := e.bursts.map tickBurst }

def tickRound (rd : Round) : Round := { rd with timer := rd.timer.tick }

def tickRealign (u : RealignRec) : RealignRec :=
  { u with timer := u.timer.tick, round := u.round.map tickRound }

def tickRau (u : Rau) : Rau := { u with records := u.records.map tickRealign }

def tickTm (m : Tm) : Tm := { m with scrubTimer := m.scrubTimer.tick }

def tickLoad (c : LoadCtx) : LoadCtx := { c with idle := c.idle.tick }

def tickMa (m : Ma) : Ma := { m with silence := m.silence.tick, load := m.load.map tickLoad }

/-- The time rises by one and every running timer counts down by one. -/
def tick (p : Part) : Part :=
  { p with now := p.now + 1, wru := tickWru p.wru, rsq := tickRsq p.rsq, se := tickSe p.se,
           rau := tickRau p.rau, tm := tickTm p.tm, ma := tickMa p.ma }

/-! ### Steps of the part's own -/

/-- The part's own commands about one row. -/
def rowCommands (r : Nat) : List Instr :=
  [.holdUntilReached r, .rowCycleElapsed r, .holdUntilAgeBound r, .lastOpeningAgeBound r, .graceExpiry r,
   .settleExpiry r, .realignExpiry r, .roundTimerExpiry r]

/-- The part's own commands about one turbine with a burst. -/
def turbineCommands (t : Nat) : List Instr := [.stepTimeout t, .lockExpiry t]

/-- Every command the part gives itself. FRAME_SENT is not among them: the manual gives the trunk no bit
rate, so the departure of a frame is commanded from outside (log entry 6). -/
def ownCommands (p : Part) : List Instr :=
  [.freshnessExpiry, .gustTimerExpiry, .excursionExpiry, .windowEntryExpiry, .switchLimitExpiry,
   .silenceExpiry, .loadIdleTimeout, .scrub, .forwardEntryHandover, .stepRelease, .burstStart,
   .roundStart, .answerHandover, .opening] ++
  (rowIndices p).flatMap rowCommands ++ (burstTurbines p).flatMap turbineCommands

/-- The command changes the part. -/
def takesEffect (s : State) (c : Instr) : Bool :=
  match exec c s with
  | .next t => decide (t.part ≠ s.part)
  | .fault _ => false
  | .refused _ => false

/-- The part's own commands that are due or possible. -/
def dueCommands (s : State) : List Instr := (ownCommands s.part).filter (takesEffect s)

/-- A step on an empty queue: the one command due goes into the queue; of several, the one the free
choice names (log entry 2); with none due the time goes on. -/
def idle (s : State) : State :=
  match dueCommands s with
  | [] => { s with part := tick s.part }
  | [c] => { s with pending := [c] }
  | c :: d :: l =>
    { s with pending := ((c :: d :: l)[Config.pick s.turns % (c :: d :: l).length]?).toList,
             turns := s.turns + 1 }

end Sys2Proof.Machine
end

