-- ==== Sys2Proof/Safety.lean ====
section
/-! DEFINITION. What counts as a sound state of the part: the ranges, capacities and agreements the manual says
always hold, and the conditions under which an event reads no faulty word and leaves nothing to settle. -/

namespace Sys2Proof.Machine

/-! ### Canonical tables -/

/-- Every sparse table has its canonical form, so that equal contents are equal data. -/
def Part.canonical (p : Part) : Bool :=
  Store.wf resetWord p.tm.words && Store.wf neverLoaded p.tm.pages &&
  Store.wf (fun _ => false) p.tm.fences && Store.wf (fun _ => (none : Option Move)) p.ms.slots &&
  Store.wf (fun _ => TurbineRec.cold) p.se.turbines &&
  Store.wf (fun _ => (none : Option Latch)) p.ma.latches

/-! ### Conservation of moves (R59) -/

/-- The moves created are those done, forwarded, discarded and live, modulo 2³². -/
def Ms.balanced (m : Ms) : Bool :=
  decide (m.created = m.done + m.forwarded + m.discarded + BitVec.ofNat 32 m.slots.length)

/-- The balance, over move slots in their canonical form. -/
def Part.balanced (p : Part) : Bool :=
  p.ms.balanced && Store.wf (fun _ => (none : Option Move)) p.ms.slots

/-! ### The mode record and the active page (R19, R88, R149) -/

/-- R149: a hold cause exactly in HOLD, exit deferred only in HOLD, the silence timer stopped outside
ENGAGED. -/
def Ma.legal (m : Ma) : Bool :=
  decide (m.holdCause.isSome = true ↔ m.mode = .hold) && (!m.exitDeferred || decide (m.mode = .hold)) &&
  (decide (m.mode = .engaged) || decide (m.silence = .stopped))

/-- R19, R88: at most one page is ACTIVE, the one RSQ names; RSQ names none exactly in THROUGH, where it
holds no row and no pending switch. -/
def Part.pagesLegal (p : Part) : Prop :=
  (∀ n, pageValidity p n = .active → p.rsq.activePage = some n) ∧
  (p.ma.mode = .through ↔ p.rsq.activePage = none) ∧
  (p.ma.mode = .through → p.rsq.rows = [] ∧ p.rsq.switch = none)

/-! ### Ranges -/

/-- R26, R27: the ranges of the accumulators. -/
def Wru.inRange (w : Wru) : Bool := decide (w.speedAcc ≤ 6400) && decide (w.dirAcc < 57600)

/-- R120, R123: credit −8..+8, hold dues 0..8. -/
def Rau.inRange (u : Rau) : Bool :=
  u.records.all fun rec => decide (-8 ≤ rec.credit) && decide (rec.credit ≤ 8) && decide (rec.holdDues ≤ 8)

/-- A yaw offset in −300..+300. -/
def offsetInRange (n : Int) : Bool := decide (-300 ≤ n) && decide (n ≤ 300)

/-- R91, R97, R44: every offset the part holds for a turbine, an outstanding step or a move. -/
def Part.offsetsInRange (p : Part) : Bool :=
  (p.se.turbines.all fun e => offsetInRange e.2.released && offsetInRange e.2.confirmed) &&
  (p.se.bursts.all fun b => b.steps.all fun x => offsetInRange x.commanded) &&
  (p.ms.slots.all fun e =>
    match e.2 with
    | some m => offsetInRange m.sp.target
    | none => true)

/-! ### Capacities (R52, R69, R97, R179, R180, R184) -/

/-- A port's two sources within their places. -/
def portBounded (places : Nat) (ps : PortState) : Bool :=
  decide (ps.through.length ≤ 64) && decide (ps.insertion.length ≤ places)

/-- The frames of forwarded AIMs in an insertion queue, by destination. -/
def forwardedDestinations (ps : PortState) : List Addr :=
  ps.insertion.filterMap fun q =>
    match q.origin with
    | .forwarded _ => some q.frame.dst
    | _ => none

/-- R52: the in-flight list names forwarded AIMs that are in the F-bound queue. -/
def inFlightHeld (p : Part) : Prop :=
  ∀ a, p.ms.inFlight.count a ≤ (forwardedDestinations p.ti.f).count a

/-- Every buffer, queue and list within its capacity; the steps of a turbine's burst and its abandoned
sequences are those the part finds under its number. -/
def Part.bounded (p : Part) : Prop :=
  portBounded 8 p.ti.c = true ∧ portBounded 32 p.ti.f = true ∧ p.ma.answers.length ≤ 4 ∧
  p.ms.forward.length ≤ 192 ∧ p.rsq.window.length ≤ 16 ∧ p.se.bursts.length ≤ 16 ∧ inFlightHeld p ∧
  (∀ t b, burstOf p t = some b → b.steps.length ≤ 2) ∧ ∀ t, (turbineRec p t).abandoned.length ≤ 2

/-! ### Row queues (R42, R43) -/

/-- The turbines that row `r` of the ACTIVE page lists. -/
def listedIn (p : Part) (r : Nat) : List Nat := (rowMembers .ms r p).1.getD []

/-- R42: a row's queue holds QUEUED moves of the row's members, one entry per turbine. -/
def queuesHold (p : Part) : Prop :=
  ∀ r, (queueAt p r).Nodup ∧ ∀ t ∈ queueAt p r, t ∈ listedIn p r ∧ ∃ m, slot p t = some m ∧ m.phase = .queued

/-- R97, R78: a burst is of a member of its row, which is OPEN or DRAINING; R48: a move in BURST has a burst. -/
def burstsHold (p : Part) : Prop :=
  (∀ b ∈ p.se.bursts, b.turbine ∈ listedIn p b.row ∧
    (rowIs p b.row .opened = true ∨ rowIs p b.row .draining = true)) ∧
  ∀ t m, slot p t = some m → m.phase = .burst → burstOf p t ≠ none

/-- R18, R19, R138, R190: a load that is OPEN stays within its table, which is LOADING if it is a page; the page
RSQ names is ACTIVE, and the target of a pending switch is VALID. -/
def pagesHold (p : Part) : Prop :=
  (∀ c, openLoad p = some c → c.first + c.count ≤ tableSize c.table ∧
    ∀ n, c.table = .page n → n < 8 ∧ pageValidity p n = .loading) ∧
  (∀ n, p.rsq.activePage = some n → n < 8 ∧ pageValidity p n = .active) ∧
  ∀ sw, p.rsq.switch = some sw → sw.target < 8 ∧ pageValidity p sw.target = .valid

/-- What keeps a row queue within its row's members. -/
def Part.queuesSound (p : Part) : Prop :=
  Store.wf (fun _ => (none : Option Move)) p.ms.slots = true ∧ p.pagesLegal ∧ queuesHold p ∧ burstsHold p ∧
  pagesHold p

/-! ### Conditions of a plain event -/

/-- Every word whose contents differ from those of a cold reset agrees with its check code (those that do
not differ agree by R21). -/
def wordsClean (p : Part) : Bool := p.tm.words.all fun e => decide (checkWord e.2 = .clean e.2.value)

/-- R152, R156: an arrival at the C port changes nothing in the mode record. -/
def arrivalInert (p : Part) : Bool :=
  match p.ma.mode with
  | .through => true
  | .engaged => false
  | .hold => decide (p.ma.holdCause ≠ some .silence) || p.ma.exitDeferred

/-- R73, R78: a row that would drain, settle or close. -/
def rowUnsettled (p : Part) (r : Nat) : Bool :=
  decide (burstCount p r = 0) &&
    (rowIs p r .draining || (rowIs p r .opened && decide (startableCount p r = 0)))

/-- Nothing is left for the end of an event: no answered round, no row with nothing to do, no freed record, no
switch at rest, no release. -/
def calm (p : Part) : Bool :=
  sequencing p && decide (p.releaseDue = none) && !p.startsDue && !(p.rau.records.any roundAnswered) &&
  !((rowIndices p).any (rowUnsettled p)) && (decide (p.rsq.switch = none) || !rowsAtRest p)

/-- The end of an event would change nothing: in ENGAGED and HOLD nothing is left to settle, in THROUGH WRU
runs or is stopped already. -/
def quiet (p : Part) : Bool :=
  if sequencing p then calm p else wruRuns p || decide (p.wru = .cold)

/-- No word in error, no release handed to MA, no freed record, no switch pending. -/
def undisturbed (p : Part) : Bool :=
  wordsClean p && decide (p.releaseDue = none) && !p.startsDue && decide (p.rsq.switch = none)

/-- The management requests (R184): the commands that MA takes and answers. -/
def isRequest : Instr → Bool
  | .status _ _ _ => true
  | .errorRead _ _ _ => true
  | .moveRead _ _ _ => true
  | .snapshot _ _ _ => true
  | .snapshotRead _ _ _ => true
  | .loadBegin _ _ _ => true
  | .loadData _ _ _ => true
  | .loadEnd _ _ _ => true
  | .loadAbort _ _ _ => true
  | .engage _ _ _ => true
  | .disengage _ _ _ => true
  | .hold _ _ _ => true
  | .release _ _ _ => true
  | .clearStickyFlags _ _ _ => true
  | .clearSuspectCondition _ _ _ => true
  | .reset _ _ _ => true
  | .unknownRequestKind _ _ _ _ => true
  | _ => false

/-! ### What statements name -/

/-- Every word of Table Memory reads in `q` as in `p`. -/
def sameWords (p q : Part) : Prop := ∀ a, wordAt q a = wordAt p a

/-- R174: one more frame received at a port. -/
def countedIn (port : Port) (t : Ti) : Ti :=
  match port with
  | .c => { t with c := { t.c with received := t.c.received + 1 } }
  | .f => { t with f := { t.f with received := t.f.received + 1 } }

/-- One more waiting answer. -/
def answered (a : Answer) (m : Ma) : Ma := { m with answers := m.answers ++ [a] }

/-- R98 for row `r` of page `n`, over clean words. -/
def burstMayStart (p : Part) (n r : Nat) : Bool :=
  rowIs p r .opened && decide (1 ≤ startableCount p r) && decide (0 < freePlaces p .f) && !gustPause p &&
    decide (burstCount p r < rowCapOf (wordAt p (pageWordAddr n (rowWord r 0))).value) &&
    decide (p.se.bursts.length < deliveredField p Field.burstCap)

/-- The sticky flag of an alert kind. -/
def stickySet (m : Ma) (k : AlertKind) : Bool := m.sticky.getLsbD k.code

/-! ### Loads -/

/-- R16, R17: NONE in every entry of the sector-map words a load ranges over; in ENGAGED and HOLD the active
sector's entry is held as the pending entry instead. The words outside the range stay. -/
def mapBlanked (c : LoadCtx) (p q : Part) : Prop :=
  let held := fun sector : Nat => sequencing p = true ∧ p.wru.activeSector = some sector
  (∀ w, c.first ≤ w → w < c.first + c.count → ∀ j, j < 4 →
    let before := wordByte (wordAt p (1952 + w)).value j
    (held (4 * w + j) → wordByte (wordAt q (1952 + w)).value j = before ∧
      q.tm.pendingEntry = some (4 * w + j, 0xFF#8)) ∧
    (¬ held (4 * w + j) → wordByte (wordAt q (1952 + w)).value j = 0xFF#8)) ∧
  (∀ a, a < 1952 + c.first ∨ 1952 + c.first + c.count ≤ a → wordAt q a = wordAt p a) ∧
  ((∀ w j, c.first ≤ w → w < c.first + c.count → j < 4 → ¬ held (4 * w + j)) →
    q.tm.pendingEntry = p.tm.pendingEntry)

/-- R16, R18, R19: the tables after the load `c` has ended without reaching validation. -/
def failedLoad (c : LoadCtx) (p q : Part) : Prop :=
  match c.table with
  | .config => q.tm.config = .invalid .loadFailed ∧ q.tm.turbine = p.tm.turbine ∧ q.tm.pages = p.tm.pages ∧
      sameWords p q
  | .turbine => q.tm.turbine = .invalid .loadFailed ∧ q.tm.config = p.tm.config ∧ q.tm.pages = p.tm.pages ∧
      sameWords p q
  | .page n => pageValidity q n = .invalid .loadFailed ∧ (∀ k, k ≠ n → pageValidity q k = pageValidity p k) ∧
      q.tm.config = p.tm.config ∧ q.tm.turbine = p.tm.turbine ∧ sameWords p q
  | .sectorMap => q.tm.config = p.tm.config ∧ q.tm.turbine = p.tm.turbine ∧ q.tm.pages = p.tm.pages ∧
      mapBlanked c p q

/-! ### A page as it is stored (R11 to R14) -/

/-- Word `w` of page `n`. -/
def pageWord (p : Part) (n w : Nat) : Word := (wordAt p (pageWordAddr n w)).value

def storedRowCount (p : Part) (n : Nat) : Nat := (pageWord p n 0).toNat

def storedMemberCount (p : Part) (n r : Nat) : Nat := (wordByte (pageWord p n (rowWord r 0)) 0).toNat

def storedFeederCount (p : Part) (n r : Nat) : Nat := (wordByte (pageWord p n (rowWord r 0)) 1).toNat

/-- The member numbers of row `r`, as many as its member count. -/
def storedMembers (p : Part) (n r : Nat) : List Nat :=
  (List.range (storedMemberCount p n r)).map fun i =>
    (wordByte (pageWord p n (rowWord r (1 + i / 4))) (i % 4)).toNat

/-- The feeder indices of row `r`, as many as its feeder count. -/
def storedFeeders (p : Part) (n r : Nat) : List Nat :=
  (List.range (storedFeederCount p n r)).map fun i => (wordByte (pageWord p n (rowWord r (5 + i))) 0).toNat

/-- The members of every row. -/
def pageMembers (p : Part) (n : Nat) : List Nat :=
  (List.range (storedRowCount p n)).flatMap (storedMembers p n)

/-- R13, its six checks. -/
def structurallySound (p : Part) (n : Nat) : Prop :=
  (1 ≤ storedRowCount p n ∧ storedRowCount p n ≤ 24) ∧
  (∀ r, r < storedRowCount p n →
    1 ≤ storedMemberCount p n r ∧ storedMemberCount p n r ≤ 16 ∧ storedFeederCount p n r ≤ 2) ∧
  (∀ t ∈ pageMembers p n, 1 ≤ t ∧ t ≤ 192) ∧ (pageMembers p n).Nodup ∧
  ∀ r, r < storedRowCount p n → (∀ f ∈ storedFeeders p n r, f < r) ∧ (storedFeeders p n r).Nodup

/-- The stored entry of turbine `t` shows it present. -/
def turbinePresent (p : Part) (t : Nat) : Bool := presentOf (wordAt p (turbineWordA t)).value

/-- R14, its two checks: the members are the turbines present and not bypassed. -/
def membershipAgrees (p : Part) (n : Nat) : Prop :=
  ∀ t, 1 ≤ t → t ≤ 192 →
    (t ∈ pageMembers p n ↔ turbinePresent p t = true ∧ bypassOf (wordAt p (turbineWordB t)).value = false)

/-- R12: the words the clamps read, each with the value they leave and the number of fields replaced. -/
def pageClamps (p : Part) (n : Nat) : List (Nat × Word × Nat) :=
  if 1 ≤ storedRowCount p n ∧ storedRowCount p n ≤ 24 then
    (List.range (storedRowCount p n)).flatMap fun r =>
      let head := pageWord p n (rowWord r 0)
      let times := pageWord p n (rowWord r 7)
      [(rowWord r 0, withLow head (clampNat 1 8 (wordLow head)), changed (clampNat 1 8 (wordLow head)) (wordLow head)),
       (rowWord r 7, withHigh (withLow times (clampNat 0 6000 (wordLow times))) (clampNat 10 6000 (wordHigh times)),
         changed (clampNat 10 6000 (wordHigh times)) (wordHigh times) +
           changed (clampNat 0 6000 (wordLow times)) (wordLow times))] ++
      (List.range (min 2 (storedFeederCount p n r))).map fun i =>
        let v := pageWord p n (rowWord r (5 + i))
        (rowWord r (5 + i), withLow v (clampNat 50 5000 (wordLow v)), changed (clampNat 50 5000 (wordLow v)) (wordLow v))
  else []

end Sys2Proof.Machine
end

