-- ==== Sys2Proof/WellFormed.lean ====
section
/-! DEFINITION. When a command's operands fit its row. A command whose operands do not fit still has a meaning:
the part classifies what it is given (R174, R176, R178, R185; log entry 24). -/

namespace Sys2Proof

/-- R174: a valid frame's payload. -/
def payloadFits (l : List Byte) : Bool := decide (l.length ≤ 200)

/-- Request fields: the payload less kind and tag (10.6). -/
def fieldsFit (l : List Byte) : Bool := decide (l.length ≤ 197)

/-- R61: a row index. -/
def rowFits (r : Nat) : Bool := decide (r < 24)

/-- A turbine number. -/
def turbineFits (t : Nat) : Bool := decide (1 ≤ t) && decide (t ≤ 192)

/-- R2: the range the part's own address lies in. -/
def partAddress (a : Addr) : Bool := decide (0x7F00#16 ≤ a) && decide (a ≤ 0x7F0F#16)

/-- R179: a frame of none of the kinds that R176 and R178 handle otherwise at its port. Whether an MREQ is
addressed to the part depends on the straps, so it is not decided here. -/
def plainFrame (port : Port) (f : Frame) : Bool :=
  match port with
  | .c => decide (f.kind ≠ Machine.kindAim) &&
      (decide (f.kind ≠ Machine.kindMreq) || decide (f.dst ≠ Machine.broadcast))
  | .f => decide (f.kind ≠ Machine.kindState) &&
      (decide (f.kind ≠ Machine.kindMreq) || decide (f.dst ≠ Machine.broadcast))

/-- R174: the bytes fail a check. -/
def failsReceive (bytes : List Byte) : Bool :=
  match Machine.receiveCheck bytes with
  | .valid _ => false
  | _ => true

/-- The operands fit the row. -/
def Instr.wf : Instr → Bool
  | .coldReset _ => true
  | .droppedFrame _ bytes => failsReceive bytes
  | .aim _ _ payload => payloadFits payload
  | .state _ _ payload => payloadFits payload
  | .forwardedFrame port frame => plainFrame port frame && payloadFits frame.payload
  | .mreqDroppedBroadcast _ payload => payloadFits payload
  | .mreqDroppedAtF dst _ payload =>
      (decide (dst = Machine.broadcast) || partAddress dst) && payloadFits payload
  | .mreqMalformed _ payload => decide (payload.length < 3)
  | .status _ _ fields => fieldsFit fields
  | .errorRead _ _ fields => fieldsFit fields
  | .moveRead _ _ fields => fieldsFit fields
  | .snapshot _ _ fields => fieldsFit fields
  | .snapshotRead _ _ fields => fieldsFit fields
  | .loadBegin _ _ fields => fieldsFit fields
  | .loadData _ _ fields => fieldsFit fields
  | .loadEnd _ _ fields => fieldsFit fields
  | .loadAbort _ _ fields => fieldsFit fields
  | .engage _ _ fields => fieldsFit fields
  | .disengage _ _ fields => fieldsFit fields
  | .hold _ _ fields => fieldsFit fields
  | .release _ _ fields => fieldsFit fields
  | .clearStickyFlags _ _ fields => fieldsFit fields && decide (Machine.byteAt fields 0 ≠ 1#8)
  | .clearSuspectCondition _ _ fields => fieldsFit fields && decide (Machine.byteAt fields 0 = 1#8)
  | .reset _ _ body => fieldsFit body.fields
  | .frameSent _ => true
  | .forwardEntryHandover => true
  | .stepRelease => true
  | .burstStart => true
  | .roundStart => true
  | .answerHandover => true
  | .opening => true
  | .holdUntilReached row => rowFits row
  | .rowCycleElapsed row => rowFits row
  | .holdUntilAgeBound row => rowFits row
  | .lastOpeningAgeBound row => rowFits row
  | .windowEntryExpiry => true
  | .freshnessExpiry => true
  | .gustTimerExpiry => true
  | .excursionExpiry => true
  | .graceExpiry row => rowFits row
  | .settleExpiry row => rowFits row
  | .stepTimeout turbine => turbineFits turbine
  | .lockExpiry turbine => turbineFits turbine
  | .realignExpiry row => rowFits row
  | .roundTimerExpiry row => rowFits row
  | .switchLimitExpiry => true
  | .silenceExpiry => true
  | .loadIdleTimeout => true
  | .scrub => true
  | .unknownRequestKind kind _ _ fields =>
      (decide (kind = 0#8) || decide (15 < kind.toNat)) && fieldsFit fields

end Sys2Proof
end

