-- ==== Sys2Proof/Certificates/Slice0/Obligations.lean ====
section
/-! DEFINITION. The statements of this model for the provers, from the numbered rules of spec/: one step and one
command, what every step keeps, what the whole part never does, then the rules block by block. -/

open Sys2Proof Sys2Proof.Machine

/-! ### One step -/

/-- A step takes the command at the front of the queue and runs it on the rest; every command completes, and
touches neither the queue's rest nor the count of free choices. That commands wait in one queue, first in, first
out, is the model's choice (log entry 31); that every command completes is deduced (log entry 36). -/
def Obligations.StepTakesTheFrontCommand : Prop :=
  ∀ (c : Instr) (rest : List Instr) (s : State), s.pending = c :: rest →
    step s = exec c { s with pending := rest } ∧
    ∃ p, exec c { s with pending := rest } = .next { s with pending := rest, part := p }

/-- The model's choice (log entries 1 and 2), on R1's time base: on an empty queue the one own command that
is due goes into the queue, of several due ones some one goes in, and with none due the time rises by one and
every running timer of the part falls by one, frozen and stopped ones staying. A command put in this way changes
the part when it is taken. -/
def Obligations.IdlePartGoesOnOfItself : Prop :=
  (∀ s : State, s.pending = [] →
    (dueCommands s = [] → step s = .next { s with part := tick s.part }) ∧
    (dueCommands s ≠ [] → ∃ c n, c ∈ dueCommands s ∧ step s = .next { s with pending := [c], turns := n } ∧
      (dueCommands s = [c] → n = s.turns)) ∧
    ∀ c ∈ dueCommands s, ∃ p, step { s with pending := [c] } = .next { s with part := p } ∧ p ≠ s.part) ∧
  (∀ p : Part, let q := tick p
    q.now = p.now + 1 ∧
    q.wru = { p.wru with
      freshness := p.wru.freshness.tick, gust := p.wru.gust.tick, excursion := p.wru.excursion.tick } ∧
    q.rsq = { p.rsq with
      rows := p.rsq.rows.map fun row => { row with grace := row.grace.tick, settle := row.settle.tick }
      switch := p.rsq.switch.map fun sw => { sw with limit := sw.limit.tick } } ∧
    q.se = { p.se with bursts := p.se.bursts.map fun b => { b with
      lockTimer := b.lockTimer.tick
      steps := b.steps.map fun x => { x with timer := x.timer.tick } } } ∧
    q.rau = { p.rau with records := p.rau.records.map fun u => { u with
      timer := u.timer.tick
      round := u.round.map fun rd => { rd with timer := rd.timer.tick } } } ∧
    q.tm = { p.tm with scrubTimer := p.tm.scrubTimer.tick } ∧
    q.ma = { p.ma with
      silence := p.ma.silence.tick
      load := p.ma.load.map fun c => { c with idle := c.idle.tick } } ∧
    q.ti = p.ti ∧ q.ms = p.ms ∧ q.releaseDue = p.releaseDue ∧ q.startsDue = p.startsDue) ∧
  ∀ n, Timer.tick (.running (n + 1)) = .running n ∧ Timer.tick (.frozen n) = .frozen n ∧
    Timer.tick .stopped = .stopped

/-- The model's choice (log entries 1 and 8): an expiry whose timer has not reached zero or does not exist, a time
that has not come, and a hand-over with nothing to hand change nothing; nor does the end of an event in a quiet
part, or in THROUGH, but for WRU's stop when the config block is not VALID (R23). -/
def Obligations.NothingDueNothingChanges : Prop :=
  (∀ s : State, let p := s.part
     (p.wru.freshness.isDue = false → exec .freshnessExpiry s = .next s) ∧
     (p.wru.gust.isDue = false → exec .gustTimerExpiry s = .next s) ∧
     (p.wru.excursion.isDue = false → exec .excursionExpiry s = .next s) ∧
     (p.ma.silence.isDue = false ∨ p.ma.mode ≠ .engaged → exec .silenceExpiry s = .next s) ∧
     (p.tm.scrubTimer.isDue = false → exec .scrub s = .next s) ∧
     (p.rsq.window = [] → exec .windowEntryExpiry s = .next s) ∧
     (∀ t l, p.rsq.window = t :: l → (p.now - t).toNat < deliveredField p Field.windowLength →
       exec .windowEntryExpiry s = .next s) ∧
     (p.rsq.switch = none → exec .switchLimitExpiry s = .next s) ∧
     (∀ sw, p.rsq.switch = some sw → sw.limit.isDue = false → exec .switchLimitExpiry s = .next s) ∧
     (openLoad p = none → exec .loadIdleTimeout s = .next s) ∧
     (∀ c, openLoad p = some c → c.idle.isDue = false → exec .loadIdleTimeout s = .next s) ∧
     (p.ms.forward = [] → exec .forwardEntryHandover s = .next s) ∧
     (p.ma.answers = [] → exec .answerHandover s = .next s)) ∧
  (∀ (s : State) (r : Nat), let p := s.part
     (graceDue p r = false → exec (.graceExpiry r) s = .next s) ∧
     (settleDue p r = false → exec (.settleExpiry r) s = .next s) ∧
     (realignAt p r = none → exec (.realignExpiry r) s = .next s) ∧
     (∀ u, realignAt p r = some u → u.timer.isDue = false → exec (.realignExpiry r) s = .next s) ∧
     ((realignAt p r).bind (·.round) = none → exec (.roundTimerExpiry r) s = .next s) ∧
     (∀ rd, (realignAt p r).bind (·.round) = some rd → rd.timer.isDue = false →
       exec (.roundTimerExpiry r) s = .next s) ∧
     (atHoldUntil p r = false → exec (.holdUntilReached r) s = .next s) ∧
     (atRowCycle p r = false → exec (.rowCycleElapsed r) s = .next s)) ∧
  (∀ (s : State) (t : Nat), let p := s.part
     (burstOf p t = none → exec (.stepTimeout t) s = .next s ∧ exec (.lockExpiry t) s = .next s) ∧
     ∀ b, burstOf p t = some b →
       (stepDue b = false → exec (.stepTimeout t) s = .next s) ∧
       (b.lockTimer.isDue = false → exec (.lockExpiry t) s = .next s)) ∧
  (∀ p : Part, quiet p = true → finishEvent p = p) ∧
  (∀ p : Part, p.ma.mode = .through → p.tm.config = .valid → finishEvent p = p) ∧
  ∀ p : Part, p.ma.mode = .through → p.tm.config ≠ .valid → gustPause p = false →
    finishEvent p = { p with wru := Wru.cold }

/-! ### Reset -/

/-- R21: the tables after a cold reset, their validity, and the defaults every reader then receives. -/
def Obligations.ColdResetSetsTheTables : Prop :=
  (List.range 24).map fieldDefault =
    [2, 6, 6000, 4, 1200, 205, 40, 600, 50, 1800, 0, 0, 0, 0, 300, 100, 6000, 300, 100, 5, 1200, 1800, 0, 10] ∧
  ∀ (start : ColdStart) (s : State), ∃ t, exec (.coldReset start) s = .next t ∧
    t.pending = s.pending ∧ t.turns = s.turns ∧
    (∀ f, f < 24 → wordAt t.part f = freshWord (BitVec.ofNat 32 (fieldDefault f))) ∧
    (∀ a, 24 ≤ a → a < 1952 → wordAt t.part a = freshWord 0#32) ∧
    (∀ a, 1952 ≤ a → a < 1956 → wordAt t.part a = freshWord 0xFFFFFFFF#32) ∧
    t.part.tm.config = .invalid .neverLoaded ∧ t.part.tm.turbine = .invalid .neverLoaded ∧
    (∀ n, pageValidity t.part n = .invalid .neverLoaded) ∧
    t.part.tm.pendingEntry = none ∧ t.part.ma.load = none ∧
    ∀ rd f, f < 24 → readConfig rd f t.part = (fieldDefault f, t.part)

/-- R38, R60, R89, R119, R135, R137, R162, R173, R183, R201: the state after a cold reset but for the tables; of
the buffers only a frame being sent is left, the first of its list (R181). A frame that the reset cuts off leaves
no count behind, by the model's order of the count and the reset of the counters (log entry 13). The state after
reset meets every invariant below. -/
def Obligations.ColdResetClearsTheBlocks : Prop :=
  (State.reset.part.canonical = true ∧ State.reset.part.balanced = true ∧ State.reset.part.ma.legal = true ∧
   State.reset.part.pagesLegal ∧ State.reset.part.wru.inRange = true ∧ State.reset.part.rau.inRange = true ∧
   State.reset.part.offsetsInRange = true ∧ State.reset.part.bounded ∧ State.reset.part.queuesSound ∧
   wordsClean State.reset.part = true ∧ State.reset.pending = []) ∧
  ∀ (start : ColdStart) (s : State), ∃ t, exec (.coldReset start) s = .next t ∧
    t.part.now = 0 ∧ t.part.releaseDue = none ∧ t.part.startsDue = false ∧
    ownAddress t.part = 0x7F00#16 + start.strap.setWidth 16 ∧
    smoothedSpeed t.part.wru = none ∧ smoothedDirection t.part.wru = none ∧ t.part.wru = Wru.cold ∧
    windFresh t.part = false ∧ gustPause t.part = false ∧
    (∀ n, slot t.part n = none) ∧ t.part.ms = Ms.cold ∧ t.part.rsq = Rsq.cold ∧
    (∀ n, turbineRec t.part n = TurbineRec.cold) ∧ t.part.se = Se.cold ∧ t.part.rau = Rau.cold ∧
    t.part.ma = Ma.cold ∧ t.part.ma.mode = .through ∧ t.part.ma.alertSeq = 0 ∧ t.part.tm = Tm.cold ∧
    t.part.tm.scrubPointer = 0 ∧ t.part.tm.scrubTimer = .running 10 ∧ (∀ n, fenceMark t.part n = false) ∧
    t.part.ti = { strap := start.strap, c := t.part.ti.c, f := t.part.ti.f, aimsDiverted := 0,
                  aimsForwardedThrough := 0, aimsMalformed := 0, stateMalformed := 0, mreqsDroppedAtF := 0,
                  mreqsDroppedBroadcast := 0 } ∧
    ∀ port, let old := portOf s.part port
      portOf t.part port = { received := 0, droppedBad := 0, droppedLong := 0, droppedOverflow := 0,
                             forwarded := 0, inserted := 0
                             through := if old.sending = some .through then old.through.take 1 else []
                             insertion := if old.sending = some .insertion then old.insertion.take 1 else []
                             sending := old.sending
                             servedLast := .insertion }

/-! ### What every step keeps -/

/-- Every sparse table stays in its canonical form: a form of the model's own data (log entry 32), of which
spec/ says nothing, so that equal contents are equal states. -/
def Obligations.StepKeepsCanonicalTables : Prop :=
  ∀ s t : State, s.part.canonical = true → step s = .next t → t.part.canonical = true

/-- R59: moves created = moves done + forwarded + discarded + live moves, modulo 2³². -/
def Obligations.StepKeepsTheMoveBalance : Prop :=
  ∀ s t : State, s.part.balanced = true → step s = .next t → t.part.balanced = true

/-- R149, R19, R88: the mode record and the ACTIVE page stay in agreement. -/
def Obligations.StepKeepsModeAndPage : Prop :=
  ∀ s t : State, s.part.ma.legal = true → s.part.pagesLegal → step s = .next t →
    t.part.ma.legal = true ∧ t.part.pagesLegal

/-- R26, R27, R120, R123, R91, R97, R44: the wind accumulators, the credits and hold dues, and every released,
confirmed and commanded offset and target stay in their ranges. -/
def Obligations.StepKeepsTheRanges : Prop :=
  (∀ s t : State, s.part.wru.inRange = true → s.part.rau.inRange = true → step s = .next t →
     t.part.wru.inRange = true ∧ t.part.rau.inRange = true) ∧
  ∀ s t : State, s.part.offsetsInRange = true → step s = .next t → t.part.offsetsInRange = true

/-- R52, R69, R96, R97, R179, R180, R184: no buffer, queue or list outgrows its capacity, and the in-flight list
names forwarded AIMs that are in the F-bound queue. R42, over clean words: a row queue holds QUEUED moves of its
row's members, one entry per turbine, and so at most 16. -/
def Obligations.StepKeepsTheCapacities : Prop :=
  (∀ s t : State, s.part.bounded → step s = .next t → t.part.bounded) ∧
  (∀ s t : State, wordsClean s.part = true → s.part.queuesSound → step s = .next t →
    wordsClean t.part = true ∧ t.part.queuesSound) ∧
  ∀ p : Part, p.queuesSound → ∀ r, (queueAt p r).length ≤ 16

/-! ### What the whole part never does -/

/-- R150, R160: of the commands whose operands fit their rows, only ENGAGE takes the part out of THROUGH (a
forwarded MREQ is one addressed elsewhere); and in THROUGH with every slot empty no command creates a move. -/
def Obligations.ThroughIsLeftByEngageAlone : Prop :=
  (∀ (c : Instr) (s t : State), c.wf = true → s.part.ma.mode = .through →
     (∀ port f, c = .forwardedFrame port f → f.kind ≠ kindMreq) → exec c s = .next t →
     t.part.ma.mode ≠ .through → ∃ src tag fields, c = .engage src tag fields) ∧
  ∀ (c : Instr) (s t : State), s.part.ma.mode = .through → s.part.ms.slots = [] → exec c s = .next t →
    t.part.ms.slots = [] ∧ (t.part.ms.created = s.part.ms.created ∨ ∃ start, c = .coldReset start)

/-- R26, R27: seeding, smoothing and the smoothed values with their ranges; a usable report enters them, and a
command changes the accumulators by a usable report, or by WRU's stop or a reset, or not at all. -/
def Obligations.SmoothingOfTheWind : Prop :=
  (∀ (w : Wru) (v d : Nat), v ≤ 400 → d ≤ 3599 →
    (smoothWind v d w).seeded = true ∧
    (w.seeded = false → (smoothWind v d w).speedAcc = 16 * v ∧ (smoothWind v d w).dirAcc = 16 * d) ∧
    (w.inRange = true → (smoothWind v d w).inRange = true) ∧
    (w.seeded = true → w.inRange = true →
      (smoothWind v d w).speedAcc = w.speedAcc - w.speedAcc / 8 + 2 * v ∧
      ∃ diff : Int, -28800 ≤ diff ∧ diff ≤ 28799 ∧
        (diff = 16 * (d : Int) - w.dirAcc ∨ diff = 16 * (d : Int) - w.dirAcc + 57600 ∨
          diff = 16 * (d : Int) - w.dirAcc - 57600) ∧
        ((smoothWind v d w).dirAcc : Int) = ((w.dirAcc : Int) + diff.tdiv 8) % 57600)) ∧
  (∀ w : Wru, w.seeded = true → w.inRange = true →
    smoothedSpeed w = some ((w.speedAcc + 8) / 16) ∧ (w.speedAcc + 8) / 16 ≤ 400 ∧
    smoothedDirection w = some ((w.dirAcc + 8) / 16 % 3600) ∧
    (57592 ≤ w.dirAcc → smoothedDirection w = some 0)) ∧
  (∀ (rep : Report) (p : Part), wruRuns p = true → usableReport rep = true →
    (wruReport rep p).wru.seeded = true ∧
    (wruReport rep p).wru.speedAcc = (smoothWind rep.speed rep.direction p.wru).speedAcc ∧
    (wruReport rep p).wru.dirAcc = (smoothWind rep.speed rep.direction p.wru).dirAcc) ∧
  ∀ (c : Instr) (s t : State), c.wf = true → exec c s = .next t →
    (t.part.wru.seeded = s.part.wru.seeded ∧ t.part.wru.speedAcc = s.part.wru.speedAcc ∧
      t.part.wru.dirAcc = s.part.wru.dirAcc) ∨
    (t.part.wru.seeded = false ∧ t.part.wru.speedAcc = 0 ∧ t.part.wru.dirAcc = 0) ∨
    ∃ dst src l, c = .state dst src l ∧ usableReport (reportOf l) = true ∧ t.part.wru.seeded = true ∧
      t.part.wru.speedAcc = (smoothWind (reportOf l).speed (reportOf l).direction s.part.wru).speedAcc ∧
      t.part.wru.dirAcc = (smoothWind (reportOf l).speed (reportOf l).direction s.part.wru).dirAcc

/-- R174, R175: a frame the part builds or passes on passes the receive checks and reads back as itself. -/
def Obligations.FramesReadBack : Prop :=
  ∀ f : Frame, f.payload.length ≤ 200 → receiveCheck (frameBytes f) = .valid f

/-! ### Rules that hold of a block -/

/-- R24: a usable report; an unusable one is ignored whole by WRU, and the wind fields of a report have no
bearing on what SE and RAU do with it. -/
def Obligations.UnusableReportsAreIgnored : Prop :=
  (∀ rep : Report, usableReport rep = true ↔ rep.speed ≤ 400 ∧ rep.direction ≤ 3599) ∧
  (∀ (rep : Report) (p : Part), usableReport rep = false → wruReport rep p = p) ∧
  ∀ (rep : Report) (v d t : Nat) (p : Part),
    seReport t { rep with speed := v, direction := d } p = seReport t rep p ∧
    rauReport t { rep with speed := v, direction := d } p = rauReport t rep p

/-- R75: the propagation delay is the least number of deciseconds that covers the spacing. R76: the speed RSQ takes
for every delay of one settle expiry. R77: over clean words, a row that closes with its moved flag set raises the
hold-until of each row below it that lists it and is not FENCED to the later of it and now plus the delay, from the
spacing of that row's entry; one with its moved flag clear raises none; the time reaching a raised hold-until of a
CLOSED row runs the arbiter. -/
def Obligations.PropagationDelay : Prop :=
  (∀ L v a : Nat, 50 ≤ L → L ≤ 5000 → 30 ≤ v → v ≤ 250 → 128 ≤ a → a ≤ 256 →
    L * 25600 ≤ propagationDelay L v a * (v * a) ∧
    (∀ n, L * 25600 ≤ n * (v * a) → propagationDelay L v a ≤ n) ∧
    20 ≤ propagationDelay L v a ∧ propagationDelay L v a ≤ 33334) ∧
  propagationDelay 50 250 256 = 20 ∧ propagationDelay 5000 30 128 = 33334 ∧
  propagationDelay 840 92 205 = 1141 ∧
  (∀ w : Wru, 30 ≤ wakeSpeed w ∧ wakeSpeed w ≤ 250 ∧ (smoothedSpeed w = none → wakeSpeed w = 30) ∧
    ∀ v, smoothedSpeed w = some v → (v ≤ 30 → wakeSpeed w = 30) ∧ (250 ≤ v → wakeSpeed w = 250) ∧
      (30 ≤ v → v ≤ 250 → wakeSpeed w = v)) ∧
  (∀ p : Part, wordsClean p = true →
    128 ≤ deliveredField p Field.advection ∧ deliveredField p Field.advection ≤ 256) ∧
  (∀ (p : Part) (r : Nat) (row : RowRec), wordsClean p = true → rowAt p r = some row →
    let q := closeRow r p
    q = { p with rsq := { p.rsq with rows := q.rsq.rows } } ∧ q.rsq.rows.length = p.rsq.rows.length ∧
    rowAt q r = some { row with state := .closed, settle := .stopped } ∧
    (row.moved = false → ∀ d, d ≠ r → rowAt q d = rowAt p d) ∧
    (row.moved = true → ∀ d rd fs, d ≠ r → rowAt p d = some rd → (rowFeeders .rsq d p).1 = some fs →
      (d < r ∨ rd.state = .fenced ∨ (∀ f ∈ fs, f.1 ≠ r) → rowAt q d = some rd) ∧
      (r < d → rd.state ≠ .fenced → ∀ f, fs.find? (fun x => x.1 == r) = some f →
        let delay := propagationDelay f.2 (wakeSpeed p.wru) (deliveredField p Field.advection)
        rowAt q d = some { rd with holdUntil := laterTime rd.holdUntil (p.now + BitVec.ofNat 32 delay) }))) ∧
  ∀ (s : State) (r : Nat),
    (settleDue s.part r = true →
      exec (.settleExpiry r) s = .next { s with part := finishEvent (closeRow r s.part) }) ∧
    (atHoldUntil s.part r = true →
      exec (.holdUntilReached r) s = .next { s with part := finishEvent (runArbiter 24 s.part) })

/-- R64: the feeder rule. R124, R65: RAU's opening permission, a matter of the record alone. R63 condition 8: a row
without it is not eligible. -/
def Obligations.FeederRuleAndPermission : Prop :=
  ((∀ (p : Part) (f : Nat) (row : RowRec), rowAt p f = some row →
     (feederPasses p f = true ↔ row.state = .fenced ∨
       ((row.state = .closed ∨ row.state = .affirming) ∧ startableCount p f = 0))) ∧
   (∀ (p : Part) (f : Nat), (∀ t ∈ queueAt p f, condOf p t ≠ .normal) → startableCount p f = 0) ∧
   (∀ (r : Nat) (p q : Part) (fs : List (Nat × Nat)), rowFeeders .rsq r p = (some fs, q) →
     ((feedersPass r p).1 = true ↔ ∀ f ∈ fs, feederPasses q f.1 = true)) ∧
   ∀ (r : Nat) (p q : Part), rowFeeders .rsq r p = (some [], q) → (feedersPass r p).1 = true) ∧
  (∀ (p : Part) (r : Nat) (u : RealignRec), realignAt p r = some u →
    (permission p r = true ↔ u.credit < 4 ∧ u.exitDue = false)) ∧
  (∀ (p q : Part) (r : Nat), realignAt p r = realignAt q r → permission p r = permission q r) ∧
  ∀ (p : Part) (r : Nat), permission p r = false → (eligible r p).1 = false

/-- R63 over clean words, its conditions 1 to 10, with the model's reading of "at or after" (log entry 7) and its
order of tests (log entry 9). R66, R67: a run of the opening arbiter leaves no row eligible. -/
def Obligations.EligibleRowsAndTheArbiter : Prop :=
  (∀ (p : Part) (r : Nat) (row : RowRec) (fs : List (Nat × Nat)), wordsClean p = true →
     rowAt p r = some row → (rowFeeders .rsq r p).1 = some fs →
     (eligible r p).2 = p ∧
     ((eligible r p).1 = true ↔
       row.state = .closed ∧ p.ma.mode = .engaged ∧ p.tm.config = .valid ∧ p.tm.turbine = .valid ∧
       windFresh p = true ∧ gustPause p = false ∧ p.wru.planMissing = false ∧ p.rsq.switch = none ∧
       1 ≤ startableCount p r ∧ earlier p.now row.holdUntil = false ∧
       (∀ t, row.lastOpening = some t →
         earlier p.now (t + BitVec.ofNat 32 (deliveredField p Field.rowCycle)) = false) ∧
       (∀ f ∈ fs, feederPasses p f.1 = true) ∧ permission p r = true ∧
       openCount p < deliveredField p Field.maxOpenRows ∧
       p.rsq.window.length < deliveredField p Field.windowLimit)) ∧
  ∀ (p : Part) (n : Nat), wordsClean p = true → p.rsq.activePage = some n → p.rsq.rows.length ≤ 24 →
    (∀ r, (eligible r (runArbiter 24 p)).1 = false) ∧ (runArbiter 24 p).rsq.activePage = some n

/-- R200: the sequence, the sticky flag, and the ALERT frame or the count of a dropped one. That a free output
chooses its source as each frame comes is the model's choice (log entry 62). -/
def Obligations.AlertsAreStampedAndSent : Prop :=
  ∀ (k : AlertKind) (subj : Subject) (p : Part), ∃ c m,
    raiseAlert k subj p = { p with ti := { p.ti with c := c }, ma := m } ∧
    m = { p.ma with
      alertSeq := p.ma.alertSeq + 1
      sticky := p.ma.sticky ||| (1#16 <<< k.code)
      droppedAlerts := m.droppedAlerts } ∧
    (p.ti.c.insertion.length < 8 → m.droppedAlerts = p.ma.droppedAlerts ∧
      let payload := [BitVec.ofNat 8 k.code] ++ subj.bytes ++ [p.ma.alertSeq + 1, 0#8]
      let frame : Frame := { dst := 0xFFFF#16, src := ownAddress p, kind := 0x43#8, payload := payload }
      c = chooseSource { p.ti.c with insertion := p.ti.c.insertion ++ [⟨frame, .alert⟩] }) ∧
    (8 ≤ p.ti.c.insertion.length → c = p.ti.c ∧ m.droppedAlerts = p.ma.droppedAlerts + 1)

/-- R163 for the model's check code (log entry 4): a written word is clean, every one of the 39 single changed
bits is corrected, and no two changed bits look like one. R164, R165: what a correctable and an uncorrectable
read do before the owner's consequence; R70: a correction of word 2 or 3 revises the opening window. -/
def Obligations.CheckedReads : Prop :=
  (∀ v : Word, checkWord (freshWord v) = .clean v ∧
     (∀ i, i < 32 → checkWord { value := v ^^^ (1#32 <<< i), code := checkCode v } = .corrected v) ∧
     (∀ i, i < 7 → checkWord { value := v, code := checkCode v ^^^ (1#7 <<< i) } = .corrected v) ∧
     (∀ i j, i < j → j < 32 →
       checkWord { value := v ^^^ (1#32 <<< i) ^^^ (1#32 <<< j), code := checkCode v } = .damaged) ∧
     (∀ i j, i < 32 → j < 7 →
       checkWord { value := v ^^^ (1#32 <<< i), code := checkCode v ^^^ (1#7 <<< j) } = .damaged) ∧
     (∀ i j, i < j → j < 7 →
       checkWord { value := v, code := checkCode v ^^^ (1#7 <<< i) ^^^ (1#7 <<< j) } = .damaged)) ∧
  ∀ (rd : Reader) (a : Nat) (p : Part),
    (∀ v, checkWord (wordAt p a) = .corrected v →
      (∀ b, b = Field.windowLength ∨ b = Field.windowLimit ∨ b = Field.wearThreshold → b ≠ a →
        checkWord (wordAt p b) = .clean (wordAt p b).value) →
      ∃ q, checkedRead rd a p = (some v, q) ∧ wordAt q a = freshWord v ∧
        (∀ b, b ≠ a → wordAt q b = wordAt p b) ∧ q.tm.lastCorrectable = some (siteOf a) ∧
        (a ≠ Field.windowLength → a ≠ Field.windowLimit → q.rsq = p.rsq) ∧
        (a = Field.windowLength ∨ a = Field.windowLimit →
          let young := p.rsq.window.filter fun t =>
            decide ((p.now - t).toNat < deliveredField p Field.windowLength)
          q.rsq = { p.rsq with
            window := young.drop (young.length - deliveredField p Field.windowLimit) }) ∧
        q.ms = p.ms ∧ q.se = p.se ∧ q.rau = p.rau ∧ q.wru = p.wru ∧
        q.tm.uncorrectable = p.tm.uncorrectable ∧ q.tm.capture = p.tm.capture ∧
        q.tm.config = p.tm.config ∧ q.tm.turbine = p.tm.turbine ∧ q.tm.pages = p.tm.pages ∧
        q.tm.fences = p.tm.fences ∧ q.releaseDue = p.releaseDue ∧ q.startsDue = p.startsDue ∧
        (let n := min 65535 (p.tm.correctable + 1)
         let th := deliveredField p Field.wearThreshold
         (0 < th ∧ th ≤ n → q.tm.correctable = 0 ∧ stickySet q.ma .wear = true ∧ q.ma.alertSeq = p.ma.alertSeq + 1) ∧
         (¬(0 < th ∧ th ≤ n) → q.tm.correctable = n ∧ q.ma = p.ma ∧ q.ti = p.ti))) ∧
    (checkWord (wordAt p a) = .damaged →
      ∃ q, checkedRead rd a p = (none, q) ∧ sameWords p q ∧
        q.tm.uncorrectable = min 255 (p.tm.uncorrectable + 1) ∧ q.tm.correctable = p.tm.correctable ∧
        q.tm.captureFrozen = true ∧
        (p.tm.captureFrozen = true → q.tm.capture = p.tm.capture ∧ q.ma = p.ma ∧ q.ti = p.ti) ∧
        (p.tm.captureFrozen = false → q.tm.capture = some { site := siteOf a, reader := rd } ∧
          stickySet q.ma .uncorrectable = true ∧ q.ma.alertSeq = p.ma.alertSeq + 1))

/-! ### Frames at the ports (chapter 10) -/

/-- R174: the three checks in their order, each with its drop and its count; a dropped frame reaches no block. R176
row 3, R178, R184: the MREQs that are dropped, each counted; those at the C port still arrive, and a short one is
malformed even when the answer list is full. R179: a frame of no kind handled otherwise joins the through buffer of
the other port, or is dropped and counted when it is full; at the C port it arrives either way (R152). That a free
output chooses its source as each frame comes is the model's choice (log entry 62). -/
def Obligations.DroppedAndForwardedFrames : Prop :=
  (∀ (port : Port) (bytes : List Byte) (s : State),
     let len := (byteAt bytes 5).toNat
     let bad := State.mk (onPort port (fun ps =>
       { ps with received := ps.received + 1, droppedBad := ps.droppedBad + 1 }) s.part) s.pending s.turns
     let long := State.mk (onPort port (fun ps =>
       { ps with received := ps.received + 1, droppedLong := ps.droppedLong + 1 }) s.part) s.pending s.turns
     (bytes.length < 8 ∨ bytes.length ≠ 8 + len → exec (.droppedFrame port bytes) s = .next bad) ∧
     (bytes.length = 8 + len → crc16 0xFFFF#16 (bytes.take (6 + len)) ≠ pairAt bytes (6 + len) →
       exec (.droppedFrame port bytes) s = .next bad) ∧
     (bytes.length = 8 + len → crc16 0xFFFF#16 (bytes.take (6 + len)) = pairAt bytes (6 + len) → 200 < len →
       exec (.droppedFrame port bytes) s = .next long)) ∧
  (∀ (src : Addr) (payload : List Byte) (s : State), let ti := s.part.ti
     exec (.mreqDroppedBroadcast src payload) s = .next { s with part := arrival { s.part with
       ti := { countedIn .c ti with mreqsDroppedBroadcast := ti.mreqsDroppedBroadcast + 1 } } } ∧
     (∀ dst, dst = ownAddress s.part ∨ dst = broadcast →
       exec (.mreqDroppedAtF dst src payload) s = .next { s with part := { s.part with
         ti := { countedIn .f ti with mreqsDroppedAtF := ti.mreqsDroppedAtF + 1 } } }) ∧
     (payload.length < 3 →
       exec (.mreqMalformed src payload) s = .next { s with part := arrival { s.part with
         ti := countedIn .c ti
         ma := { s.part.ma with requestsMalformed := s.part.ma.requestsMalformed + 1 } } })) ∧
  ∀ (f : Frame) (s : State), let ti := s.part.ti
    (f.kind ≠ kindState → (f.kind = kindMreq → f.dst ≠ ownAddress s.part ∧ f.dst ≠ broadcast) →
      ∃ t, exec (.forwardedFrame .f f) s = .next { s with part := { s.part with ti := t } } ∧
        (ti.c.through.length < 64 → t = { countedIn .f ti with
          c := chooseSource { ti.c with through := ti.c.through ++ [f] } }) ∧
        (64 ≤ ti.c.through.length → t = { ti with
          f := { ti.f with received := ti.f.received + 1, droppedOverflow := ti.f.droppedOverflow + 1 } })) ∧
    (f.kind ≠ kindAim → (f.kind = kindMreq → f.dst ≠ ownAddress s.part ∧ f.dst ≠ broadcast) →
      ∃ t, exec (.forwardedFrame .c f) s = .next { s with part := arrival { s.part with ti := t } } ∧
        (ti.f.through.length < 64 → t = { countedIn .c ti with
          f := chooseSource { ti.f with through := ti.f.through ++ [f] } }) ∧
        (64 ≤ ti.f.through.length → t = { ti with
          c := { ti.c with received := ti.c.received + 1, droppedOverflow := ti.c.droppedOverflow + 1 } }))

/-- R152, R156, R157: what the arrival of a valid frame at the C port does to the mode record, in each mode; a leave
from HOLD ends with RAU's test for the exit rounds now due (8.8, time 150). -/
def Obligations.ArrivalsReachTheModeRecord : Prop :=
  ∀ p : Part,
    (p.ma.mode = .through → arrival p = p) ∧
    (p.ma.mode = .hold → p.ma.holdCause ≠ some .silence ∨ p.ma.exitDeferred = true → arrival p = p) ∧
    (wordsClean p = true → calm p = true →
      (p.ma.mode = .engaged →
        let v := deliveredField p Field.ctrlSilence
        arrival p = { p with ma := { p.ma with silence := if v = 0 then .stopped else .running v } }) ∧
      (p.ma.mode = .hold → p.ma.holdCause = some .silence → p.ma.exitDeferred = false →
        (loadHoldsMode p = true → arrival p = { p with ma := { p.ma with exitDeferred := true } }) ∧
        (loadHoldsMode p = false →
          let v := deliveredField p Field.ctrlSilence
          ∃ q, arrival p = finishEvent (startRounds 24 q) ∧
            q = { p with ti := q.ti, rau := q.rau, ma := q.ma } ∧ q.ti.f = p.ti.f ∧
            q.ma.mode = .engaged ∧ q.ma.holdCause = none ∧ q.ma.exitDeferred = false ∧
            q.ma.silence = (if v = 0 then .stopped else .running v) ∧
            stickySet q.ma .holdLeft = true ∧ q.ma.alertSeq = p.ma.alertSeq + 1 ∧
            ∀ r u, r < p.rsq.rows.length → realignAt p r = some u → realignAt q r =
              some { u with holdDues := 0, exitDue := u.exitDue || !rowIs p r .fenced })))

/-- R181, R180, R182, R52: a free output sends nothing; a sent frame leaves its source and is counted, the
departure of a forwarded AIM is reported to MS, and the arbiter chooses the next source by its table. That a
departure is commanded, and that one at a free output changes nothing, is the model's choice (log entries 6 and
1), and so is that the arbiter chooses before a later frame of the same event comes (log entry 62). -/
def Obligations.FramesLeaveTheirPort : Prop :=
  (∀ (port : Port) (s : State), (portOf s.part port).sending = none → exec (.frameSent port) s = .next s) ∧
  (∀ (port : Port) (s : State) (f : Frame) (l : List Frame), (portOf s.part port).sending = some .through →
    (portOf s.part port).through = f :: l →
    ∃ t : State, exec (.frameSent port) s = .next { s with part := { s.part with ti := t.part.ti } } ∧
      portOf t.part port = chooseSource { portOf s.part port with through := l, sending := none } ∧
      portOf t.part (otherPort port) =
        { portOf s.part (otherPort port) with forwarded := (portOf s.part (otherPort port)).forwarded + 1 } ∧
      t.part.ti.aimsForwardedThrough = s.part.ti.aimsForwardedThrough) ∧
  (∀ (port : Port) (s : State) (q : QFrame) (l : List QFrame),
    (portOf s.part port).sending = some .insertion → (portOf s.part port).insertion = q :: l →
    ∃ t : State, exec (.frameSent port) s =
        .next { s with part := { s.part with ti := t.part.ti, ms := t.part.ms } } ∧
      portOf t.part port = chooseSource { portOf s.part port with
        insertion := l, sending := none, inserted := (portOf s.part port).inserted + 1 } ∧
      portOf t.part (otherPort port) = portOf s.part (otherPort port) ∧
      (∀ b, q.origin = .forwarded b →
        t.part.ms = { s.part.ms with inFlight := s.part.ms.inFlight.erase q.frame.dst } ∧
        t.part.ti.aimsForwardedThrough = s.part.ti.aimsForwardedThrough + (if b then 1 else 0)) ∧
      ((∀ b, q.origin ≠ .forwarded b) → t.part.ms = s.part.ms ∧
        t.part.ti.aimsForwardedThrough = s.part.ti.aimsForwardedThrough)) ∧
  ∀ ps : PortState,
    (∀ src, ps.sending = some src → chooseSource ps = ps) ∧
    (ps.sending = none →
      (ps.through = [] → ps.insertion = [] → chooseSource ps = ps) ∧
      (ps.through ≠ [] → ps.insertion = [] ∨ ps.servedLast = .insertion →
        chooseSource ps = { ps with sending := some .through, servedLast := .through }) ∧
      (ps.insertion ≠ [] → ps.through = [] ∨ ps.servedLast = .through →
        chooseSource ps = { ps with sending := some .insertion, servedLast := .insertion }))

/-- R175 over clean words: an address maps to the lowest turbine number whose entry is present, unmarked and
has the address as its ring address. -/
def Obligations.AddressMapping : Prop :=
  ∀ (a : Addr) (p : Part), wordsClean p = true →
    let fits := fun t => 1 ≤ t ∧ t ≤ 192 ∧ fenceMark p t = false ∧
      presentOf (wordAt p (turbineWordA t)).value = true ∧ ringOf (wordAt p (turbineWordA t)).value = a
    (mapAddress a p).2 = p ∧
    (∀ t, (mapAddress a p).1 = some t ↔ fits t ∧ ∀ u, u < t → ¬ fits u) ∧
    ((mapAddress a p).1 = none ↔ ∀ t, ¬ fits t)

/-! ### AIMs (chapter 3) -/

/-- R176 row 5, R177, R160: an AIM for no turbine the part sequences is forwarded whatever its payload, counted as
forwarded through even when the through buffer is full (deduced, log entry 18), and one for the part's own address,
which the sentence under R176's table gives to row 6, no less (the model's choice, log entry 43); a short one for a
turbine the part sequences is malformed. R54, with R177's length check: an AIM behind a forward-list or in-flight
entry for its destination, for a turbine the part does not sequence, replaces the entry or is appended, in every
mode. That a free output chooses its source as each frame comes is the model's choice (log entry 62). -/
def Obligations.AimsPassThroughOrWait : Prop :=
  let unsequenced := fun (p : Part) (dst : Addr) => p.ma.mode = .through ∨ (mapAddress dst p).1 = none ∨
    ∃ t, (mapAddress dst p).1 = some t ∧
      (bypassOf (wordAt p (turbineWordB t)).value = true ∨ (rowOf .ti t p).1 = none)
  (∀ (dst src : Addr) (l : List Byte) (s : State), wordsClean s.part = true →
     waitsBehindForward s.part dst = false → unsequenced s.part dst →
     let ti := s.part.ti
     let f : Frame := { dst := dst, src := src, kind := 0x21#8, payload := l }
     ∃ q, exec (.aim dst src l) s = .next { s with part := arrival (finishEvent { s.part with ti := q }) } ∧
       (ti.f.through.length < 64 → q = { countedIn .c ti with
         aimsForwardedThrough := ti.aimsForwardedThrough + 1
         f := chooseSource { ti.f with through := ti.f.through ++ [f] } }) ∧
       (64 ≤ ti.f.through.length → q = { ti with
         aimsForwardedThrough := ti.aimsForwardedThrough + 1
         c := { ti.c with received := ti.c.received + 1, droppedOverflow := ti.c.droppedOverflow + 1 } })) ∧
  (∀ (dst src : Addr) (l : List Byte) (s : State) (t r : Nat), wordsClean s.part = true →
     waitsBehindForward s.part dst = false → sequencing s.part = true → (mapAddress dst s.part).1 = some t →
     bypassOf (wordAt s.part (turbineWordB t)).value = false → (rowOf .ti t s.part).1 = some r → l.length < 6 →
     exec (.aim dst src l) s = .next { s with part := arrival (finishEvent { s.part with
       ti := { countedIn .c s.part.ti with aimsMalformed := s.part.ti.aimsMalformed + 1 } }) }) ∧
  ∀ (dst src : Addr) (l : List Byte) (s : State), waitsBehindForward s.part dst = true →
    let ti := s.part.ti
    let raw := rawAim { dst := dst, src := src, kind := 0x21#8, payload := l }
    let sp := setpointOf raw
    (l.length < 6 → exec (.aim dst src l) s = .next { s with part := arrival { s.part with
      ti := { countedIn .c ti with aimsMalformed := ti.aimsMalformed + 1 } } }) ∧
    (6 ≤ l.length → s.part.ma.mode = .through ∨ wordsClean s.part = true → unsequenced s.part dst →
      ∃ m, exec (.aim dst src l) s = .next { s with part := arrival (finishEvent { s.part with
          ti := { countedIn .c ti with aimsDiverted := ti.aimsDiverted + 1 }, ms := m }) } ∧
        m = { s.part.ms with
          forward := m.forward, aimClamps := m.aimClamps, forwardDropped := m.forwardDropped } ∧
        m.aimClamps = s.part.ms.aimClamps + (if aimReplaced raw then 1 else 0) ∧
        (forwardListHas s.part dst = true → m.forwardDropped = s.part.ms.forwardDropped ∧
          m.forward = s.part.ms.forward.map fun e => if e.sp.dst = dst then ⟨sp, true⟩ else e) ∧
        (forwardListHas s.part dst = false → s.part.ms.forward.length < 192 →
          m.forward = s.part.ms.forward ++ [⟨sp, true⟩] ∧ m.forwardDropped = s.part.ms.forwardDropped) ∧
        (forwardListHas s.part dst = false → s.part.ms.forward.length = 192 →
          m.forward = s.part.ms.forward.drop 1 ++ [⟨sp, true⟩] ∧
          m.forwardDropped = s.part.ms.forwardDropped + 1))

/-- R44: the fields of an AIM brought into range. -/
def Obligations.AimFieldsBroughtIntoRange : Prop :=
  ∀ a : RawAim,
    (setpointOf a).dst = a.dst ∧ (setpointOf a).src = a.src ∧ (setpointOf a).tag = a.tag ∧
    (a.target < -300 → (setpointOf a).target = -300) ∧ (300 < a.target → (setpointOf a).target = 300) ∧
    (-300 ≤ a.target → a.target ≤ 300 → (setpointOf a).target = a.target) ∧
    ((setpointOf a).mode = .chop ↔ a.mode = 1#8) ∧ ((setpointOf a).urgency = .urgent ↔ a.urgency = 1#8) ∧
    (aimReplaced a = true ↔ ¬(-300 ≤ a.target ∧ a.target ≤ 300 ∧ (a.mode = 0#8 ∨ a.mode = 1#8) ∧
      (a.urgency = 0#8 ∨ a.urgency = 1#8))) ∧
    ∀ p : Part, (countAimClamp a p).ms =
      { p.ms with aimClamps := p.ms.aimClamps + (if aimReplaced a then 1 else 0) }

/-- R45, R41, R42, R54's first row: an AIM for a sequenced turbine with an empty slot creates a move, done at
once when its turbine already stands at the target; a waiting forward entry for the address is removed. -/
def Obligations.AimsCreateMoves : Prop :=
  ∀ (dst src : Addr) (l : List Byte) (s : State) (t r : Nat), wordsClean s.part = true →
    sequencing s.part = true → (mapAddress dst s.part).1 = some t →
    bypassOf (wordAt s.part (turbineWordB t)).value = false → (rowOf .ti t s.part).1 = some r →
    r < s.part.ms.queues.length → 6 ≤ l.length → slot s.part t = none →
    let raw := rawAim { dst := dst, src := src, kind := 0x21#8, payload := l }
    let m : Move := { sp := setpointOf raw, arrival := s.part.ms.created + 1, phase := .queued,
                      resumed := false, firstFault := none }
    let rec0 := turbineRec s.part t
    ∃ q, exec (.aim dst src l) s = .next { s with part := arrival (finishEvent q) } ∧
      q = { s.part with
        ti := { countedIn .c s.part.ti with aimsDiverted := s.part.ti.aimsDiverted + 1 }
        ms := q.ms } ∧
      q.ms.created = s.part.ms.created + 1 ∧ q.ms.forwarded = s.part.ms.forwarded ∧
      q.ms.discarded = s.part.ms.discarded ∧ q.ms.supersedes = s.part.ms.supersedes ∧
      q.ms.aimClamps = s.part.ms.aimClamps + (if aimReplaced raw then 1 else 0) ∧
      q.ms.forward = s.part.ms.forward.filter (fun e => e.sp.dst != dst) ∧
      q.ms.forwardDropped = s.part.ms.forwardDropped ∧
      q.ms.inFlight = s.part.ms.inFlight ∧ (∀ u, u ≠ t → slot q u = slot s.part u) ∧
      ((rec0.cond = .normal ∨ rec0.cond = .suspect) ∧ m.sp.target = rec0.released →
        slot q t = none ∧ q.ms.done = s.part.ms.done + 1 ∧ q.ms.queues = s.part.ms.queues) ∧
      (¬((rec0.cond = .normal ∨ rec0.cond = .suspect) ∧ m.sp.target = rec0.released) →
        slot q t = some m ∧ q.ms.done = s.part.ms.done ∧
        queueAt q r = insertByOrder (turbineBefore q) t (queueAt s.part r) ∧
        (∀ u, u ∈ queueAt q r ↔ u = t ∨ u ∈ queueAt s.part r) ∧
        ∀ r', r' ≠ r → queueAt q r' = queueAt s.part r')

/-- R46, R42: an AIM supersedes a QUEUED move: six fields replaced, three kept; done when its turbine already
stands at the new target, and else at its place in its queue, which changes only with its urgency. R47, R112: one
supersedes a move in BURST the same way, and SE acts by the new target against the released offset and the
direction of motion, which runs from the confirmed offset to the released one, or without an outstanding step from
the released offset to the old target: beyond it the burst runs its step release test, at it the burst goes on
without a further step and resolves when none is outstanding, behind it the burst ends at its step boundary. A
burst already ENDING is left as it is. -/
def Obligations.AimsSupersedeMoves : Prop :=
  (∀ (dst src : Addr) (l : List Byte) (s : State) (t r : Nat) (m : Move), wordsClean s.part = true →
     sequencing s.part = true → (mapAddress dst s.part).1 = some t →
     bypassOf (wordAt s.part (turbineWordB t)).value = false → (rowOf .ti t s.part).1 = some r →
     6 ≤ l.length → slot s.part t = some m → m.phase = .queued →
     let raw := rawAim { dst := dst, src := src, kind := 0x21#8, payload := l }
     let rec0 := turbineRec s.part t
     ∃ q, exec (.aim dst src l) s = .next { s with part := arrival (finishEvent q) } ∧
       q = { s.part with
         ti := { countedIn .c s.part.ti with aimsDiverted := s.part.ti.aimsDiverted + 1 }
         ms := q.ms } ∧
       q.ms.created = s.part.ms.created ∧ q.ms.forwarded = s.part.ms.forwarded ∧
       q.ms.discarded = s.part.ms.discarded ∧ q.ms.supersedes = s.part.ms.supersedes + 1 ∧
       q.ms.aimClamps = s.part.ms.aimClamps + (if aimReplaced raw then 1 else 0) ∧
       q.ms.forward = s.part.ms.forward.filter (fun e => e.sp.dst != dst) ∧
       q.ms.forwardDropped = s.part.ms.forwardDropped ∧ q.ms.inFlight = s.part.ms.inFlight ∧
       (∀ u, u ≠ t → slot q u = slot s.part u) ∧
       ((rec0.cond = .normal ∨ rec0.cond = .suspect) ∧ (setpointOf raw).target = rec0.released →
         slot q t = none ∧ q.ms.done = s.part.ms.done + 1 ∧
         ∀ r', queueAt q r' = (queueAt s.part r').filter (· != t)) ∧
       (¬((rec0.cond = .normal ∨ rec0.cond = .suspect) ∧ (setpointOf raw).target = rec0.released) →
         slot q t = some { m with sp := setpointOf raw } ∧ q.ms.done = s.part.ms.done ∧
         ∀ r', queueAt q r' = (if t ∈ queueAt s.part r' then
             insertByOrder (turbineBefore q) t ((queueAt s.part r').filter (· != t)) else queueAt s.part r') ∧
           (∀ u, u ∈ queueAt q r' ↔ u ∈ queueAt s.part r') ∧
           ((queueAt s.part r').Pairwise (fun a b => turbineBefore s.part a b = true) →
             (setpointOf raw).urgency = m.sp.urgency → queueAt q r' = queueAt s.part r'))) ∧
  ∀ (dst src : Addr) (l : List Byte) (s : State) (t r : Nat) (m : Move) (b : Burst),
    wordsClean s.part = true → sequencing s.part = true → (mapAddress dst s.part).1 = some t →
    bypassOf (wordAt s.part (turbineWordB t)).value = false → (rowOf .ti t s.part).1 = some r →
    6 ≤ l.length → slot s.part t = some m → m.phase = .burst → burstOf s.part t = some b →
    let raw := rawAim { dst := dst, src := src, kind := 0x21#8, payload := l }
    let sp := setpointOf raw
    let rec0 := turbineRec s.part t
    let dir := if b.steps = [] then (m.sp.target - rec0.released).sign
      else (rec0.released - rec0.confirmed).sign
    let way := (sp.target - rec0.released).sign
    ∃ q p1 : Part, exec (.aim dst src l) s = .next { s with part := arrival (finishEvent q) } ∧
      p1 = { s.part with
        ti := { countedIn .c s.part.ti with aimsDiverted := s.part.ti.aimsDiverted + 1 }
        ms := { s.part.ms with
          slots := p1.ms.slots
          supersedes := s.part.ms.supersedes + 1
          aimClamps := s.part.ms.aimClamps + (if aimReplaced raw then 1 else 0)
          forward := s.part.ms.forward.filter (fun e => e.sp.dst != dst) } } ∧
      slot p1 t = some { m with sp := sp } ∧ (∀ u, u ≠ t → slot p1 u = slot s.part u) ∧
      (b.phase = .ending → q = p1) ∧
      (b.phase ≠ .ending → sp.target ≠ rec0.released → way = dir →
        q = releaseSteps t p1 ∧ (b.phase = .paused → q = p1)) ∧
      (b.phase ≠ .ending → sp.target = rec0.released →
        (b.steps ≠ [] → q = p1) ∧
        (b.steps = [] → b.lockReached = false →
          burstOf q t = none ∧ slot q t = none ∧ q.ms.done = s.part.ms.done + 1)) ∧
      (b.phase ≠ .ending → sp.target ≠ rec0.released → way ≠ dir →
        (b.steps ≠ [] → burstOf q t = some { b with phase := .ending } ∧
          q = { p1 with se := { p1.se with bursts := q.se.bursts } }) ∧
        (b.steps = [] → burstOf q t = none ∧
          slot q t = some { m with sp := sp, phase := .queued, resumed := true } ∧
          q.ms.done = s.part.ms.done ∧ (b.row < s.part.ms.queues.length → t ∈ queueAt q b.row))) ∧
      (b.phase = .ending ∨ sp.target = rec0.released ∨ way ≠ dir →
        q = { p1 with
          ms := { p1.ms with slots := q.ms.slots, queues := q.ms.queues, done := q.ms.done }
          se := { p1.se with bursts := q.se.bursts }
          startsDue := p1.startsDue || decide (burstOf q t = none) } ∧
        ∀ u, u ≠ t → slot q u = slot s.part u ∧ burstOf q u = burstOf s.part u)

/-! ### STATEs (chapters 2, 5 and 6) -/

/-- R178: a STATE is forwarded; a malformed one is counted, one from no turbine is copied to no block, and one
that maps to a turbine reaches SE, RAU, and WRU when a RefTurbine field names it. That they take it in this order
is the model's choice (log entry 19): R178 gives none. -/
def Obligations.StateFramesAreCopied : Prop :=
  ∀ (dst src : Addr) (l : List Byte) (s : State),
    let f : Frame := { dst := dst, src := src, kind := 0x31#8, payload := l }
    let p := forwardFrame .f f { s.part with ti := countedIn .f s.part.ti }
    (stateWellFormed l = true ↔ 10 ≤ l.length ∧ (byteAt l 6).toNat < 4 ∧ (byteAt l 9).toNat < 4 ∧
      ((byteAt l 6).getLsbD 0 = true → (byteAt l 7).toNat < 16)) ∧
    (stateWellFormed l = false → exec (.state dst src l) s = .next { s with part := { p with
      ti := { p.ti with stateMalformed := p.ti.stateMalformed + 1 } } }) ∧
    (stateWellFormed l = true → wordsClean s.part = true → (mapAddress src s.part).1 = none →
      exec (.state dst src l) s = .next { s with part := finishEvent p }) ∧
    (stateWellFormed l = true → wordsClean s.part = true → ∀ t, (mapAddress src s.part).1 = some t →
      let rep := reportOf l
      let p2 := finishEvent (rauReport t rep (finishEvent (seReport t rep p)))
      let p3 := if t ∈ [10, 11, 12, 13].map (deliveredField s.part) then finishEvent (wruReport rep p2) else p2
      exec (.state dst src l) s = .next { s with part := p3 })

/-- R93, R120, R160: in THROUGH SE and RAU take no action on a report. R25, R29, R30, R32: a usable one takes its
gust test, enters the smoothing, reloads the freshness timer and sets the active sector directly. R25, R30, R31,
R72, R108, R17, R33, R35: in ENGAGED and HOLD the start of a gust pause freezes the grace timers of the OPEN rows
and gives every burst the GUST cause, RUNNING ones being PAUSED; stage 4 writes a pending sector-map entry; then
come the span test, or the first active sector, and the plan check. -/
def Obligations.ReportsInThrough : Prop :=
  (∀ (t : Nat) (rep : Report) (p : Part), p.ma.mode = .through →
     seReport t rep p = p ∧ rauReport t rep p = p) ∧
  (∀ (rep : Report) (p : Part), wordsClean p = true → p.ma.mode = .through → p.tm.config = .valid →
    usableReport rep = true →
    let w := smoothWind rep.speed rep.direction p.wru
    let q := wruReport rep p
    let gust := ∃ v, smoothedSpeed p.wru = some v ∧ v + deliveredField p Field.gustMargin < rep.speed
    q.wru.freshness = .running (deliveredField p Field.refSilence) ∧ windFresh q = true ∧
    q.wru.speedAcc = w.speedAcc ∧ q.wru.dirAcc = w.dirAcc ∧ q.wru.seeded = true ∧
    (gust → q.wru.gust = .running (deliveredField p Field.gustHold)) ∧ (¬ gust → q.wru.gust = p.wru.gust) ∧
    q.wru.activeSector = some ((w.dirAcc + 8) / 16 % 3600 / 225) ∧ q.wru.excursion = .stopped ∧
    q.wru.planMissing = p.wru.planMissing ∧
    (p.wru.activeSector = q.wru.activeSector → q.ma = p.ma ∧ q.ti = p.ti) ∧
    (p.wru.activeSector ≠ q.wru.activeSector → stickySet q.ma .sectorChange = true) ∧
    q.ms = p.ms ∧ q.rau = p.rau ∧ q.tm = p.tm ∧ q.releaseDue = p.releaseDue) ∧
  ∀ (rep : Report) (p : Part), wordsClean p = true → sequencing p = true → usableReport rep = true →
    let w := smoothWind rep.speed rep.direction p.wru
    let d := (w.dirAcc + 8) / 16 % 3600
    let gust := ∃ v, smoothedSpeed p.wru = some v ∧ v + deliveredField p Field.gustMargin < rep.speed
    ∃ q : Part, wruReport rep p = planCheck (match p.wru.activeSector with
        | some a => spanTest a d q
        | none => raiseAlert .sectorChange (.sector (d / 225)) { q with wru := { q.wru with
            excursion := .stopped, activeSector := some (d / 225) } }) ∧
      q = { p with wru := q.wru, rsq := q.rsq, se := q.se, tm := q.tm } ∧
      q.wru = { w with gust := q.wru.gust, freshness := .running (deliveredField p Field.refSilence) } ∧
      (gust → q.wru.gust = .running (deliveredField p Field.gustHold)) ∧ (¬ gust → q.wru.gust = p.wru.gust) ∧
      (gust → gustPause p = false →
        q.rsq = { p.rsq with rows := p.rsq.rows.map fun row =>
          if row.state = .opened then { row with grace := row.grace.freeze } else row } ∧
        q.se = { p.se with bursts := p.se.bursts.map fun b =>
          { b with gust := true, phase := if b.phase = .running then .paused else b.phase } }) ∧
      (¬ gust ∨ gustPause p = true → q.rsq = p.rsq ∧ q.se = p.se) ∧
      (p.tm.pendingEntry = none → q.tm = p.tm) ∧
      (∀ a b, p.tm.pendingEntry = some (a, b) →
        q.tm = { p.tm with words := q.tm.words, pendingEntry := none } ∧ wordsClean q = true ∧
        (∀ j, j < 4 → wordByte (wordAt q (1952 + a / 4)).value j =
          if j = a % 4 then b else wordByte (wordAt p (1952 + a / 4)).value j) ∧
        ∀ x, x ≠ 1952 + a / 4 → wordAt q x = wordAt p x)

/-- R33: the span test, with its worked span of sector 0. R35, R138, R139, R141, R142: the plan check by the entry
of the active sector: plan-missing, and the switch begun, retargeted, cancelled or left; a cancellation goes on
with the rounds that are due and ends with a run of the opening arbiter. That RSQ takes the request within the plan
check is the model's choice (log entry 56). R19, R36, R142: a page that leaves VALID,
or enters it, runs the plan check; when it is the target of the pending switch and no longer VALID, RSQ first
cancels the switch itself, and its rounds start before the plan check and its arbiter runs after it. -/
def Obligations.SpanTestAndPlanCheck : Prop :=
  ((∀ d, d < 3600 → (insideSpan 0 d 50 = true ↔ 3550 ≤ d ∨ d ≤ 274)) ∧
   ∀ (a d : Nat) (p : Part), wordsClean p = true → a < 16 → d < 3600 →
     let h := deliveredField p Field.sectorHysteresis
     let inside := ((d : Int) - 225 * a + h) % 3600 ≤ 224 + 2 * h
     (inside → spanTest a d p = { p with wru := { p.wru with excursion := .stopped } }) ∧
     (¬ inside → p.wru.excursion.isRunning = true → spanTest a d p = p) ∧
     (¬ inside → p.wru.excursion.isRunning = false →
       spanTest a d p = { p with wru := { p.wru with
         excursion := .running (deliveredField p Field.sectorDwell) } })) ∧
  (∀ (p : Part) (a : Nat), wordsClean p = true → sequencing p = true → p.wru.activeSector = some a →
    let entry := wordByte (wordAt p (1952 + a / 4)).value (a % 4)
    let q := planCheck p
    let found := { p with wru := { p.wru with planMissing := false } }
    let dropped := { p.rsq with switch := none, cancellations := p.rsq.cancellations + 1 }
    (∀ n, entryPage entry = some n → pageValidity p n = .active →
      (p.rsq.switch = none → q = found) ∧
      (p.rsq.switch ≠ none → q = runArbiter 24 (startRounds 24 { found with rsq := dropped }) ∧
        q.rsq.switch = none ∧ q.rsq.cancellations = p.rsq.cancellations + 1)) ∧
    (∀ n, entryPage entry = some n → pageValidity p n = .valid →
      q.wru.planMissing = false ∧
      (p.rsq.switch = none →
        q.rsq.switch = some { target := n, limit := .running (deliveredField p Field.switchLimit),
                              retargeted := false } ∧
        q.rsq.switchesBegun = p.rsq.switchesBegun + 1 ∧ (∀ r, rowIs q r .opened = false)) ∧
      (∀ sw, p.rsq.switch = some sw → sw.target = n → q.rsq = p.rsq) ∧
      (∀ sw, p.rsq.switch = some sw → sw.target ≠ n → q.rsq = { p.rsq with
        switch := some { sw with target := n, retargeted := true }
        retargets := p.rsq.retargets + 1 })) ∧
    ((∀ n, entryPage entry = some n → pageValidity p n ≠ .active ∧ pageValidity p n ≠ .valid) →
      q.wru.planMissing = true ∧ (p.rsq.switch = none → q.rsq = p.rsq) ∧
      (p.rsq.switch ≠ none → q.rsq = { dropped with rows := q.rsq.rows } ∧
        ∃ noted, q = runArbiter 24 (startRounds 24 { noted with rsq := dropped }) ∧ noted.rsq = p.rsq ∧
          (p.wru.planMissing = true → noted = p) ∧
          (p.wru.planMissing = false →
            noted = raiseAlert .planMissing .nothing { p with wru := { p.wru with planMissing := true } })) ∧
      (p.wru.planMissing = true → q.ma = p.ma) ∧
      (p.wru.planMissing = false → stickySet q.ma .planMissing = true ∧
        q.ma.alertSeq = p.ma.alertSeq + 1))) ∧
  ∀ (p : Part) (n : Nat),
    ((∀ sw, p.rsq.switch = some sw → sw.target ≠ n ∨ pageValidity p n = .valid) →
      pageChanged n p = planCheck p) ∧
    ∀ sw, p.rsq.switch = some sw → sw.target = n → pageValidity p n ≠ .valid →
      pageChanged n p = runArbiter 24 (planCheck (startRounds 24 { p with rsq := { p.rsq with
        switch := none
        cancellations := p.rsq.cancellations + 1 } }))

/-- R93, R94, R50: the first STATE of an UNSEEN turbine that is not passed through. R95: a report of a
passed-through turbine, bypassed or listed by no row but a FENCED one, sets both offsets and leaves the condition,
and its named sequence is taken as for any turbine without a burst. -/
def Obligations.FirstStateOfATurbine : Prop :=
  (∀ (t r : Nat) (rep : Report) (p : Part), wordsClean p = true → sequencing p = true →
    bypassOf (wordAt p (turbineWordB t)).value = false → (rowOf .se t p).1 = some r →
    condOf p t = .unseen → burstOf p t = none →
    let q := seReport t rep p
    let x := turbineRec p t
    turbineRec q t = { x with
      released := rep.applied
      confirmed := rep.applied
      cond := if rep.yaw = .fault then .suspect else .normal
      yaw := some rep.yaw
      nextSeq := match rep.seq with
        | some n => n + 1
        | none => x.nextSeq } ∧
    (∀ u, u ≠ t → turbineRec q u = turbineRec p u ∧ slot q u = slot p u) ∧
    (∀ m, slot p t = some m → m.phase = .queued → m.sp.target = rep.applied →
      slot q t = none ∧ q.ms.done = p.ms.done + 1 ∧ ∀ r', t ∉ queueAt q r') ∧
    ((∀ m, slot p t = some m → m.phase = .burst ∨ m.sp.target ≠ rep.applied) → q.ms = p.ms) ∧
    (rep.yaw ≠ .fault → q.ma = p.ma ∧ q.ti = p.ti) ∧ (rep.yaw = .fault → stickySet q.ma .suspect = true) ∧
    q.rsq = p.rsq ∧ q.se.bursts = p.se.bursts ∧ q.rau = p.rau ∧ q.wru = p.wru ∧ q.tm = p.tm) ∧
  ∀ (t : Nat) (rep : Report) (p : Part), wordsClean p = true → sequencing p = true →
    bypassOf (wordAt p (turbineWordB t)).value = true ∨ (rowOf .se t p).1 = none → burstOf p t = none →
    p.startsDue = false →
    let q := seReport t rep p
    let x := turbineRec p t
    let late := match rep.seq with
      | some n => x.abandoned.contains n
      | none => false
    (late = true → slot p t = none) →
    turbineRec q t = { x with
      released := rep.applied
      confirmed := rep.applied
      yaw := some rep.yaw
      abandoned := match rep.seq with
        | some n => x.abandoned.filter (· != n)
        | none => x.abandoned } ∧
    (∀ u, u ≠ t → turbineRec q u = turbineRec p u) ∧
    q = { p with se := { p.se with
      turbines := q.se.turbines
      lateConfirms := p.se.lateConfirms + (if late then 1 else 0) } }

/-- R103, R104, R114, R48, R80: a report that names an outstanding step within Tolerance confirms it and every
older one, in every phase. Its last step confirmed, a burst at its target resolves done, or is handed back with the
verdict requeue when its lock limit was reached; so is an ENDING burst short of its target. Every other burst goes
on with the step release test of R101, which only a RUNNING burst can pass. -/
def Obligations.StepConfirmation : Prop :=
  ∀ (t : Nat) (n : BitVec 4) (applied : Int) (p : Part) (m : Move) (b : Burst) (i : Nat) (x : Step),
    wordsClean p = true → burstOf p t = some b → slot p t = some m → m.phase = .burst →
    b.steps.findIdx? (fun y => y.seq == n) = some i → b.steps[i]? = some x →
    (x.commanded - applied).natAbs ≤ deliveredField p Field.tolerance →
    let q := matchSequence t n applied p
    let last := b.steps.length = i + 1
    let atTarget := (turbineRec p t).released = m.sp.target
    ∃ p1 : Part,
      p1 = { p with rsq := { p.rsq with rows := p1.rsq.rows }, se := { p.se with
        turbines := p1.se.turbines
        bursts := p1.se.bursts
        stepsConfirmed := p.se.stepsConfirmed + BitVec.ofNat 32 (i + 1) } } ∧
      turbineRec p1 t = { turbineRec p t with confirmed := x.commanded } ∧
      burstOf p1 t = some { b with steps := armOldest b.lock (b.steps.drop (i + 1)) } ∧
      (∀ u, u ≠ t → turbineRec p1 u = turbineRec p u ∧ burstOf p1 u = burstOf p u) ∧
      (∀ row, rowAt p b.row = some row → rowAt p1 b.row = some { row with moved := true }) ∧
      (∀ r, r ≠ b.row → rowAt p1 r = rowAt p r) ∧
      (last → atTarget ∨ b.phase = .ending →
        q = { p1 with ms := { p.ms with slots := q.ms.slots, queues := q.ms.queues, done := q.ms.done },
                      se := { p1.se with bursts := q.se.bursts }, startsDue := true } ∧
        burstOf q t = none ∧ (∀ u, u ≠ t → burstOf q u = burstOf p u ∧ slot q u = slot p u) ∧
        (atTarget → b.lockReached = false →
          slot q t = none ∧ q.ms.done = p.ms.done + 1 ∧ ∀ r u, u ∈ queueAt q r ↔ u ≠ t ∧ u ∈ queueAt p r) ∧
        (¬ atTarget ∨ b.lockReached = true →
          slot q t = some { m with phase := .queued, resumed := true } ∧ q.ms.done = p.ms.done ∧
          (b.row < p.ms.queues.length → t ∈ queueAt q b.row) ∧
          (∀ r, r ≠ b.row → queueAt q r = queueAt p r) ∧
          ∀ u, u ≠ t → (u ∈ queueAt q b.row ↔ u ∈ queueAt p b.row))) ∧
      (¬ last ∨ ¬ atTarget ∧ b.phase ≠ .ending →
        q = releaseSteps t p1 ∧ (b.phase ≠ .running ∨ atTarget → q = p1))

/-- R105, R92, R48, R49: a report that names an outstanding step beyond Tolerance is a mismatch. R103, R107, R96:
a sequence neither outstanding nor abandoned takes no step action; an abandoned one is a late confirmation. It sets
both offsets of a turbine without an outstanding step: a QUEUED move may then be done, and a burst resolves by its
verdict or runs its step release test; with an outstanding step the offsets and the burst stay. -/
def Obligations.StepMismatchAndLateConfirmation : Prop :=
  (∀ (t : Nat) (n : BitVec 4) (applied : Int) (p : Part) (m : Move) (b : Burst) (i : Nat) (x : Step),
     wordsClean p = true → burstOf p t = some b → slot p t = some m → m.phase = .burst →
     b.steps.findIdx? (fun y => y.seq == n) = some i → b.steps[i]? = some x →
     deliveredField p Field.tolerance < (x.commanded - applied).natAbs →
     let q := matchSequence t n applied p
     let rec0 := turbineRec p t
     turbineRec q t = { rec0 with
       released := applied
       confirmed := applied
       cond := if rec0.cond = .normal then .suspect else rec0.cond
       abandoned := abandonSeqs rec0.abandoned (b.steps.drop (i + 1)) } ∧
     burstOf q t = none ∧ q.se.mismatches = p.se.mismatches + 1 ∧
     slot q t = some { m with
       phase := .queued
       resumed := true
       firstFault := some (m.firstFault.getD .mismatch) } ∧
     (b.row < p.ms.queues.length → t ∈ queueAt q b.row) ∧
     (∀ u, u ≠ t → turbineRec q u = turbineRec p u ∧ slot q u = slot p u ∧ burstOf q u = burstOf p u) ∧
     (m.firstFault = none → stickySet q.ma .moveFault = true) ∧
     (rec0.cond = .normal → stickySet q.ma .suspect = true) ∧ q.startsDue = true ∧
     q.rsq = p.rsq ∧ q.tm = p.tm ∧ q.wru = p.wru ∧ q.rau = p.rau ∧ q.ti.f = p.ti.f) ∧
  (∀ (t : Nat) (n : BitVec 4) (applied : Int) (p : Part) (b : Burst), burstOf p t = some b →
    (∀ x ∈ b.steps, x.seq ≠ n) →
    let q := matchSequence t n applied p
    let rec0 := turbineRec p t
    (n ∉ rec0.abandoned → q = p) ∧
    ∀ m, n ∈ rec0.abandoned → slot p t = some m → m.phase = .burst →
      ∃ p1 : Part,
        p1 = { p with ti := { p.ti with c := p1.ti.c }, ms := { p.ms with slots := p1.ms.slots }, ma := p1.ma,
                      se := { p.se with turbines := p1.se.turbines, lateConfirms := p.se.lateConfirms + 1 } } ∧
        slot p1 t = some { m with firstFault := some (m.firstFault.getD .lateConfirm) } ∧
        (m.firstFault = none → stickySet p1.ma .moveFault = true) ∧ (m.firstFault ≠ none → p1.ma = p.ma) ∧
        (∀ u, u ≠ t → turbineRec p1 u = turbineRec p u ∧ slot p1 u = slot p u) ∧
        (b.steps ≠ [] → q = p1 ∧
          turbineRec p1 t = { rec0 with abandoned := rec0.abandoned.filter (· != n) }) ∧
        (b.steps = [] →
          turbineRec p1 t = { rec0 with
            released := applied
            confirmed := applied
            abandoned := rec0.abandoned.filter (· != n) } ∧
          (applied = m.sp.target ∨ b.phase = .ending → burstOf q t = none ∧ q.startsDue = true ∧
            q = { p1 with ms := q.ms, se := { p1.se with bursts := q.se.bursts }, startsDue := true } ∧
            (∀ u, u ≠ t → burstOf q u = burstOf p u ∧ slot q u = slot p u) ∧
            (applied = m.sp.target → b.lockReached = false → slot q t = none ∧ q.ms.done = p.ms.done + 1) ∧
            (applied ≠ m.sp.target ∨ b.lockReached = true → q.ms.done = p.ms.done ∧ slot q t = some { m with
              phase := .queued
              resumed := true
              firstFault := some (m.firstFault.getD .lateConfirm) } ∧
              (b.row < p.ms.queues.length → t ∈ queueAt q b.row))) ∧
          (applied ≠ m.sp.target → b.phase ≠ .ending →
            q = releaseSteps t p1 ∧ (b.phase = .paused → q = p1)))) ∧
  ∀ (t : Nat) (n : BitVec 4) (applied : Int) (p : Part), burstOf p t = none →
    let q := matchSequence t n applied p
    let rec0 := turbineRec p t
    (n ∉ rec0.abandoned → q = p) ∧
    (n ∈ rec0.abandoned →
      turbineRec q t = { rec0 with
        released := applied
        confirmed := applied
        abandoned := rec0.abandoned.filter (· != n) } ∧
      q.se.lateConfirms = p.se.lateConfirms + 1 ∧ q.rsq = p.rsq ∧ q.se.bursts = p.se.bursts ∧
      (∀ u, u ≠ t → turbineRec q u = turbineRec p u ∧ slot q u = slot p u) ∧
      (∀ m, slot p t = some m → m.phase = .queued → m.sp.target = applied →
        slot q t = none ∧ q.ms.done = p.ms.done + 1) ∧
      (∀ m, slot p t = some m → m.phase = .queued → m.sp.target ≠ applied →
        slot q t = some { m with firstFault := some (m.firstFault.getD .lateConfirm) } ∧
        q.ms.done = p.ms.done)) ∧
    ∀ l : List (BitVec 4), (pushAbandoned l n).length ≤ 2 ∧ n ∈ pushAbandoned l n ∧
      (n ∉ l → l.Nodup → l.length ≤ 2 → (pushAbandoned l n).Nodup ∧
        (l.length ≤ 1 → pushAbandoned l n = l ++ [n]) ∧ (l.length = 2 → pushAbandoned l n = l.drop 1 ++ [n]))

/-- R93: over clean words a report of a turbine that is seen and not passed through takes the sequence it names,
with RSQ's tests, with the taking of a pending switch (R143), and SE's arbiter for a burst that this frees (R114,
5.8; log entry 8), then the yaw status, and then records the yaw status. R111, R92: FAULT makes a NORMAL turbine
without a burst SUSPECT, unless it is passed through; any other status of such a turbine is only recorded. R109,
R111, R115: stage 3 of a report from a turbine with a burst: LOCKED sets the LOCK cause once, READY and MOVING
clear it, FAULT abandons the burst. A passed-through turbine has none by R95; that the burst of a bypassed member
(log entry 53) is treated as any other is the model's choice (log entry 59). -/
def Obligations.YawStatusInABurst : Prop :=
  (∀ (t r : Nat) (rep : Report) (p : Part), wordsClean p = true → sequencing p = true →
    bypassOf (wordAt p (turbineWordB t)).value = false → (rowOf .se t p).1 = some r → condOf p t ≠ .unseen →
    let matched := match rep.seq with
      | some n => runStartsDue (matchSequence t n rep.applied p)
      | none => p
    let taken := takeYaw t false rep.yaw matched
    let q := seReport t rep p
    q = { taken with se := { taken.se with turbines := q.se.turbines } } ∧
    turbineRec q t = { turbineRec taken t with yaw := some rep.yaw } ∧
    ∀ u, u ≠ t → turbineRec q u = turbineRec taken u) ∧
  (∀ (t : Nat) (passed : Bool) (y : YawStatus) (p : Part), burstOf p t = none →
    let q := takeYaw t passed y p
    (y ≠ .fault ∨ passed = true ∨ condOf p t ≠ .normal → q = p) ∧
    (y = .fault → passed = false → condOf p t = .normal →
      turbineRec q t = { turbineRec p t with cond := .suspect } ∧
      (∀ u, u ≠ t → turbineRec q u = turbineRec p u) ∧ stickySet q.ma .suspect = true ∧
      q.ma.alertSeq = p.ma.alertSeq + 1 ∧
      q = { p with ti := { p.ti with c := q.ti.c }, ma := q.ma, se := { p.se with turbines := q.se.turbines } })) ∧
  ∀ (t : Nat) (passed : Bool) (p : Part) (b : Burst), wordsClean p = true → burstOf p t = some b →
    let rec0 := turbineRec p t
    (b.lock = false → b.lockReached = false →
      burstOf (takeYaw t passed .locked p) t = some { b with
        lock := true
        lockTimer := .running (deliveredField p Field.lockLimit)
        steps := mapOldestTimer Timer.freeze b.steps
        phase := if b.phase = .running then .paused else b.phase }) ∧
    (b.lock = true ∨ b.lockReached = true → takeYaw t passed .locked p = p) ∧
    (∀ y, y = .ready ∨ y = .moving →
      (b.lock = false → takeYaw t passed y p = p) ∧
      (b.lock = true →
        let ph := if b.phase = .paused ∧ b.gust = false then .running else b.phase
        ∃ p1 : Part, takeYaw t passed y p = releaseSteps t p1 ∧
          p1 = { p with se := { p.se with bursts := p1.se.bursts } } ∧
          burstOf p1 t = some { b with
            lock := false
            lockTimer := .stopped
            steps := mapOldestTimer Timer.thaw b.steps
            phase := ph } ∧
          (∀ u, u ≠ t → burstOf p1 u = burstOf p u) ∧ (ph ≠ .running → takeYaw t passed y p = p1))) ∧
    (let q := takeYaw t passed .fault p
     burstOf q t = none ∧
     turbineRec q t = { rec0 with
       released := rec0.confirmed
       cond := if rec0.cond = .normal then .suspect else rec0.cond
       abandoned := abandonSeqs rec0.abandoned b.steps } ∧
     (∀ m, slot p t = some m → m.phase = .burst → slot q t = some { m with
       phase := .queued
       resumed := true
       firstFault := some (m.firstFault.getD .turbineFault) }) ∧
     (rec0.cond = .normal → stickySet q.ma .suspect = true) ∧ q.startsDue = true ∧ q.ti.f = p.ti.f ∧
     q.rsq = p.rsq)

/-- R128, R129: an answer to a round in progress; a report that answers none takes no action at RAU. -/
def Obligations.AffirmAnswers : Prop :=
  ∀ (t : Nat) (rep : Report) (p : Part), wordsClean p = true → sequencing p = true →
    let q := rauReport t rep p
    (rep.round = none → q = p) ∧
    (∀ n, rep.round = some n → pendingAnswer p t n = none → q = p) ∧
    ∀ n r sent, rep.round = some n → pendingAnswer p t n = some (r, sent) →
      let near := (rep.applied - sent).natAbs ≤ deliveredField p Field.tolerance
      (near → q = { p with rau := q.rau, se := q.se } ∧
        turbineRec q t = { turbineRec p t with misses := 0 } ∧
        q.rau.affirmConfirms = p.rau.affirmConfirms + 1 ∧ q.rau.affirmMismatches = p.rau.affirmMismatches) ∧
      (¬ near → turbineRec q t = { turbineRec p t with
          misses := 0
          released := rep.applied
          confirmed := rep.applied
          cond := if condOf p t = .normal then .suspect else condOf p t } ∧
        q.rau.affirmMismatches = p.rau.affirmMismatches + 1 ∧
        q.rau.affirmConfirms = p.rau.affirmConfirms ∧ q.rsq = p.rsq ∧
        (∀ m, slot p t = some m → m.phase = .queued → m.sp.target = rep.applied → slot q t = none) ∧
        ∀ m, slot p t = some m → m.sp.target ≠ rep.applied →
          slot q t = some { m with firstFault := some (m.firstFault.getD .affirmMismatch) }) ∧
      (∃ u rd, realignAt p r = some u ∧ u.round = some rd ∧ rd.number = n ∧
        realignAt q r = some { u with round := some { rd with entries := rd.entries.map fun e =>
          if e.turbine = t ∧ e.status = .pending then
            { e with status := if near then .confirmed else .mismatched }
          else e } }) ∧
      (∀ r', r' ≠ r → realignAt q r' = realignAt p r') ∧
      ∀ u, u ≠ t → turbineRec q u = turbineRec p u ∧ slot q u = slot p u

/-! ### Management requests (chapters 8 and 11) -/

/-- R184, R185: with four answers waiting every request is dropped unanswered and counted; a request that is
not one of the fifteen, or too short, or names no table or clear kind, is answered REFUSED, MALFORMED. Either
way its arrival still reaches the mode record. -/
def Obligations.RequestsTurnedAway : Prop :=
  (∀ (c : Instr) (s : State), isRequest c = true → 4 ≤ s.part.ma.answers.length →
    exec c s = .next { s with part := arrival { s.part with
      ti := countedIn .c s.part.ti
      ma := { s.part.ma with requestsDropped := s.part.ma.requestsDropped + 1 } } }) ∧
  (∀ (src : Addr) (tag : BitVec 16) (result reason : Nat), buildAnswer src tag result reason [] =
    { dst := src, parts := [be16 tag ++ [BitVec.ofNat 8 result, BitVec.ofNat 8 reason, 0x80#8]] }) ∧
  ∀ (src : Addr) (tag : BitVec 16) (fields : List Byte) (s : State), s.part.ma.answers.length < 4 →
    let refused : Host.Outcome State Fault Refusal := .next { s with part := arrival { s.part with
      ti := countedIn .c s.part.ti
      ma := answered (buildAnswer src tag 2 16 []) s.part.ma } }
    (∀ kind : Byte, kind.toNat = 0 ∨ 15 < kind.toNat →
      exec (.unknownRequestKind kind src tag fields) s = refused) ∧
    (fields.length < 1 → exec (.moveRead src tag fields) s = refused) ∧
    (fields.length < 3 → exec (.snapshot src tag fields) s = refused ∧
      exec (.snapshotRead src tag fields) s = refused) ∧
    (fields.length < 6 ∨ 3 < (byteAt fields 0).toNat → exec (.loadBegin src tag fields) s = refused) ∧
    (fields.length < 5 ∨ 193 < fields.length ∨ fields.length % 4 ≠ 1 →
      exec (.loadData src tag fields) s = refused) ∧
    (fields.length < 2 → exec (.loadEnd src tag fields) s = refused) ∧
    (fields.length < 2 ∨ 1 < (byteAt fields 0).toNat → exec (.clearStickyFlags src tag fields) s = refused) ∧
    (fields.length < 2 → exec (.clearSuspectCondition src tag fields) s = refused)

/-- R186, R187, R188, R184: the three requests that read the state. STATUS answers its 79 items, in at most 8 parts
of at most 200 bytes. What items 17 and 18 hold with no switch pending, that the active page and sector and the yaw
status hold 0xFF for none, and MOVE-READ's item 12 for an entry not present are the model's choice (log entry 23).
-/
def Obligations.ReadRequests : Prop :=
  (∀ p : Part, statusValues p =
    -- 1 to 8: the mode record
    [modeByte p.ma.mode, optItem (fun c => num1 (holdCauseCode c)) p.ma.holdCause, flag p.ma.exitDeferred,
     num4 p.ma.silence.left, optItem releaseCauseByte p.ma.lastRelease, be32 p.ma.holdsByCommand,
     be32 p.ma.holdsBySilence, be32 p.ma.releases] ++
    -- 9 to 14: the wind
    [optItem num2 (smoothedSpeed p.wru), optItem num2 (smoothedDirection p.wru), flag (windFresh p),
     flag (gustPause p), orNone num1 p.wru.activeSector, flag p.wru.planMissing] ++
    -- 15 to 23: the active page and the switch
    [orNone num1 p.rsq.activePage, optItem (fun sw => num1 sw.target) p.rsq.switch,
     num4 (p.rsq.switch.elim 0 fun sw => sw.limit.left), flag (p.rsq.switch.elim false fun sw => sw.retargeted),
     be32 p.rsq.switchesBegun, be32 p.rsq.retargets, be32 p.rsq.cancellations, be32 p.rsq.switchesTaken,
     be32 p.rsq.switchesForced] ++
    -- 24 to 33: the config block, the turbine table, pages 0 to 7
    [validityBytes p.tm.config, validityBytes p.tm.turbine, validityBytes (pageValidity p 0),
     validityBytes (pageValidity p 1), validityBytes (pageValidity p 2), validityBytes (pageValidity p 3),
     validityBytes (pageValidity p 4), validityBytes (pageValidity p 5), validityBytes (pageValidity p 6),
     validityBytes (pageValidity p 7)] ++
    -- 34 to 40: moves
    [num1 p.ms.slots.length, be32 p.ms.created, be32 p.ms.done, be32 p.ms.forwarded, be32 p.ms.discarded,
     be32 p.ms.supersedes, be32 p.ms.aimClamps] ++
    -- 41 to 46: bursts and steps
    [num1 p.se.bursts.length, be32 p.se.stepsReleased, be32 p.se.stepsConfirmed, be32 p.se.stepTimeouts,
     be32 p.se.mismatches, be32 p.se.lateConfirms] ++
    -- 47 to 53: rounds
    [be32 p.rau.roundsStarted, be32 p.rau.roundsCompleted, be32 p.rau.affirmsSent, be32 p.rau.affirmConfirms,
     be32 p.rau.affirmMismatches, be32 p.rau.affirmMisses, be32 p.rau.overruns] ++
    -- 54 to 60: the Management Agent
    [be16 p.ma.sticky, be32 p.ma.droppedAlerts, [p.ma.alertSeq],
     optItem (fun x => tableBytes x.1 ++ outcomeBytes x.2) p.ma.lastLoad,
     optItem (fun c => tableBytes c.table ++ num2 c.first ++ num2 c.count ++ num2 c.received ++ [c.expectedSeq] ++
       num1 (if c.ended.isSome then 1 else 0)) p.ma.load,
     be32 p.ma.requestsDropped, be32 p.ma.requestsMalformed] ++
    -- 61 to 78: the Trunk Interface
    [be32 p.ti.c.received, be32 p.ti.f.received, be32 p.ti.c.droppedBad, be32 p.ti.f.droppedBad,
     be32 p.ti.c.droppedLong, be32 p.ti.f.droppedLong, be32 p.ti.c.droppedOverflow, be32 p.ti.f.droppedOverflow,
     be32 p.ti.c.forwarded, be32 p.ti.f.forwarded, be32 p.ti.c.inserted, be32 p.ti.f.inserted,
     be32 p.ti.aimsDiverted, be32 p.ti.aimsForwardedThrough, be32 p.ti.aimsMalformed, be32 p.ti.stateMalformed,
     be32 p.ti.mreqsDroppedAtF, be32 p.ti.mreqsDroppedBroadcast] ++
    -- 79: forward-list entries dropped
    [be32 p.ms.forwardDropped]) ∧
  (∀ (p : Part) (src : Addr) (tag : BitVec 16), (statusValues p).length = 79 ∧
    (buildAnswer src tag 0 0 (statusValues p)).parts.length ≤ 8 ∧
    ∀ l ∈ (buildAnswer src tag 0 0 (statusValues p)).parts, l.length ≤ 200) ∧
  ∀ (src : Addr) (tag : BitVec 16) (fields : List Byte) (s : State), s.part.ma.answers.length < 4 →
    let ti := countedIn .c s.part.ti
    exec (.status src tag fields) s = .next { s with part := arrival { s.part with
      ti := ti, ma := answered (buildAnswer src tag 0 0 (statusValues { s.part with ti := ti })) s.part.ma } } ∧
    exec (.errorRead src tag fields) s = .next { s with part := arrival { s.part with
      ti := ti
      tm := { s.part.tm with captureFrozen := false }
      ma := answered (buildAnswer src tag 0 0
        [num4 s.part.tm.correctable, optItem siteBytes s.part.tm.lastCorrectable,
         num4 s.part.tm.uncorrectable, optItem captureBytes s.part.tm.capture,
         flag s.part.tm.captureFrozen, num2 s.part.tm.scrubPointer,
         (fencedTurbines s.part).flatMap num1]) s.part.ma } } ∧
    (fields.length ≥ 1 → let t := (byteAt fields 0).toNat
      (t < 1 ∨ 192 < t → exec (.moveRead src tag fields) s = .next { s with part := arrival { s.part with
        ti := ti, ma := answered (buildAnswer src tag 2 17 []) s.part.ma } }) ∧
      (1 ≤ t → t ≤ 192 → wordsClean s.part = true →
        let x := turbineRec s.part t
        let w := (wordAt s.part (turbineWordA t)).value
        exec (.moveRead src tag fields) s = .next { s with part := arrival (finishEvent { s.part with
          ti := ti
          ma := answered (buildAnswer src tag 0 0
            [num1 t, offsetBytes x.released, offsetBytes x.confirmed, conditionByte x.cond,
             orNone yawByte x.yaw, num1 x.misses, [x.nextSeq.setWidth 8], x.abandoned.map (·.setWidth 8),
             flag (fenceMark s.part t), optItem (moveBytes t) (slot s.part t),
             optItem burstBytes (burstOf s.part t),
             flag (presentOf w && forwardListHas s.part (ringOf w))]) s.part.ma }) }))

/-- R196, R197, R90, R136: SNAPSHOT fills the empty latches of the masked rows and reports both masks;
SNAPSHOT-READ returns the filled ones in ascending order and empties them. -/
def Obligations.Snapshots : Prop :=
  ∀ (src : Addr) (tag : BitVec 16) (fields : List Byte) (s : State), s.part.ma.answers.length < 4 →
    3 ≤ fields.length →
    let ti := countedIn .c s.part.ti
    let masked := fun r : Nat => (maskOf fields).getLsbD r
    (s.part.ma.mode = .through → exec (.snapshot src tag fields) s = .next { s with part := arrival { s.part with
      ti := ti, ma := answered (buildAnswer src tag 2 7 []) s.part.ma } }) ∧
    (s.part.ma.mode ≠ .through →
      ∃ latches, exec (.snapshot src tag fields) s = .next { s with part := arrival { s.part with
          ti := ti
          ma := answered (buildAnswer src tag 0 0
            [be24 (maskFrom ((rowIndices s.part).filter fun r => masked r && (latchAt s.part r).isNone)),
             be24 (maskFrom ((rowIndices s.part).filter fun r => masked r && (latchAt s.part r).isSome))])
            { s.part.ma with latches := latches } } } ∧
        ∀ r, let l := Store.get (fun _ => none) latches r
          (masked r = false ∨ s.part.rsq.rows.length ≤ r ∨ (latchAt s.part r).isSome = true →
            l = latchAt s.part r) ∧
          (∀ row u, masked r = true → rowAt s.part r = some row → realignAt s.part r = some u →
            latchAt s.part r = none → l = some {
              time := s.part.now
              state := row.state
              remaining := match row.state with
                | .opened => row.grace.left
                | .settling => row.settle.left
                | _ => 0
              toHoldUntil := if earlier s.part.now row.holdUntil then row.holdUntil - s.part.now else 0
              queueLength := (queueAt s.part r).length
              startable := startableCount s.part r
              bursts := burstCount s.part r
              moved := row.moved
              credit := u.credit
              realignLeft := u.timer.left
              reloadPending := u.pendingReload.isSome })) ∧
    ∃ latches, exec (.snapshotRead src tag fields) s = .next { s with part := arrival { s.part with
        ti := ti
        ma := answered (buildAnswer src tag 0 0
          (((List.range 24).filter fun r => masked r && (latchAt s.part r).isSome).map fun r =>
            optItem (latchBytes r) (latchAt s.part r))) { s.part.ma with latches := latches } } } ∧
      ∀ r, Store.get (fun _ => none) latches r =
        if r < 24 ∧ masked r = true then none else latchAt s.part r

/-- R190, R18, R19, R185: the refusals of LOAD-BEGIN in their order, and an accepted one: the new context, the table
LOADING, every other block as it was, and for a PAGE the plan check (R36). -/
def Obligations.LoadBegin : Prop :=
  ∀ (src : Addr) (tag : BitVec 16) (fields : List Byte) (s : State) (tb : Table),
    s.part.ma.answers.length < 4 → 6 ≤ fields.length → loadTable (byteAt fields 0) (byteAt fields 1) = some tb →
    let first := (pairAt fields 2).toNat
    let count := (pairAt fields 4).toNat
    let ti := countedIn .c s.part.ti
    let answer := fun (result reason : Nat) => Host.Outcome.next (φ := Fault) (ρ := Refusal)
      { s with part := arrival { s.part with
        ti := ti, ma := answered (buildAnswer src tag result reason []) s.part.ma } }
    let open_ := (openLoad s.part).isSome
    let range := (∃ n, tb = .page n ∧ 7 < n) ∨ count = 0 ∨ tableSize tb < first + count
    let sequenced := (tb = .config ∨ tb = .turbine) ∧
      (s.part.ma.mode = .engaged ∨ s.part.ma.mode = .hold ∧ s.part.se.bursts ≠ [])
    let inUse := ∃ n, tb = .page n ∧ (pageValidity s.part n = .active ∨
      ∃ sw, s.part.rsq.switch = some sw ∧ sw.target = n)
    (open_ = true → exec (.loadBegin src tag fields) s = answer 1 0) ∧
    (open_ = false → range → exec (.loadBegin src tag fields) s = answer 2 17) ∧
    (open_ = false → ¬ range → sequenced → exec (.loadBegin src tag fields) s = answer 2 18) ∧
    (open_ = false → ¬ range → ¬ sequenced → inUse → exec (.loadBegin src tag fields) s = answer 2 19) ∧
    (open_ = false → ¬ range → ¬ sequenced → ¬ inUse → wordsClean s.part = true →
      ∃ q p0 : Part, exec (.loadBegin src tag fields) s = .next { s with part := arrival (finishEvent q) } ∧
        p0 = { s.part with
          ti := ti
          ma := { s.part.ma with load := some {
            table := tb, first := first, count := count, received := 0, expectedSeq := 0, crc := 0,
            idle := .running 50, ended := none, mapClamped := 0 } }
          tm := { s.part.tm with
            config := if tb = .config then .loading else s.part.tm.config
            turbine := if tb = .turbine then .loading else s.part.tm.turbine
            pages := p0.tm.pages } } ∧
        (∀ n, pageValidity p0 n = if tb = .page n then .loading else pageValidity s.part n) ∧
        ((∃ n, tb = .page n) →
          q = { planCheck p0 with ma := answered (buildAnswer src tag 0 0 []) (planCheck p0).ma }) ∧
        ((∀ n, tb ≠ .page n) →
          q = { p0 with ma := answered (buildAnswer src tag 0 0 []) p0.ma } ∧ p0.tm.pages = s.part.tm.pages) ∧
        q.ma.load = p0.ma.load ∧ q.tm = p0.tm ∧
        q.ma.answers = s.part.ma.answers ++ [buildAnswer src tag 0 0 []] ∧ sameWords s.part q ∧
        q.ma.mode = s.part.ma.mode ∧ q.ma.lastLoad = s.part.ma.lastLoad)

/-- R191, R193: LOAD-DATA without an OPEN context, out of sequence, beyond the count, and taken: its words in their
places with fresh codes, the CRC over its bytes, and no answer. R16, R17: of a SECTOR-MAP load an entry that names
neither a page nor NONE is stored as NONE and counted, and in ENGAGED and HOLD the active sector's entry is held as
the pending entry. R70: a CONFIG load's word 2 or 3 revises the opening window, after each of the two, against both
fields as then delivered; without one of them the window stays. That a failed load's release in HOLD waits in
`releaseDue` for the end of the event is deduced (log entry 5). -/
def Obligations.LoadData : Prop :=
  ∀ (src : Addr) (tag : BitVec 16) (fields : List Byte) (s : State), s.part.ma.answers.length < 4 →
    5 ≤ fields.length → fields.length ≤ 193 → fields.length % 4 = 1 → wordsClean s.part = true →
    let n := (fields.length - 1) / 4
    let ti := countedIn .c s.part.ti
    (openLoad s.part = none → exec (.loadData src tag fields) s = .next { s with part := arrival { s.part with
      ti := ti, ma := answered (buildAnswer src tag 2 12 []) s.part.ma } }) ∧
    (∀ c, openLoad s.part = some c → byteAt fields 0 ≠ c.expectedSeq ∨ c.count < c.received + n →
      let e : LoadError := if byteAt fields 0 ≠ c.expectedSeq then .sequence else .overrun
      ∃ q, exec (.loadData src tag fields) s = .next { s with part := arrival (finishEvent q) } ∧
        q.ma.load = some { c with idle := .stopped, ended := some e } ∧
        q.ma.lastLoad = some (c.table, .failed e) ∧
        q.ma.answers = s.part.ma.answers ++ [buildAnswer src tag 2 (if e = .sequence then 1 else 2) []] ∧
        failedLoad c s.part q ∧
        (s.part.ma.mode = .hold → c.table = .config ∨ c.table = .turbine → s.part.releaseDue = none →
          q.releaseDue = some .loadFailed)) ∧
    (∀ c, openLoad s.part = some c → c.table ≠ .sectorMap → byteAt fields 0 = c.expectedSeq →
      c.received + n ≤ c.count →
      ∃ q, exec (.loadData src tag fields) s = .next { s with part := arrival (finishEvent q) } ∧
        q.ma = { s.part.ma with load := some { c with
          received := c.received + n
          expectedSeq := c.expectedSeq + 1
          crc := crc16 c.crc (fields.drop 1)
          idle := .running 50 } } ∧
        (∀ i, i < n → wordAt q (tableBase c.table + c.first + c.received + i) =
          freshWord (byteAt fields (4 * i + 1) ++ byteAt fields (4 * i + 2) ++ byteAt fields (4 * i + 3) ++
            byteAt fields (4 * i + 4))) ∧
        (∀ a, a < tableBase c.table + c.first + c.received ∨
          tableBase c.table + c.first + c.received + n ≤ a → wordAt q a = wordAt s.part a) ∧
        q = { s.part with ti := ti, tm := q.tm, ma := q.ma, rsq := q.rsq } ∧
        q.tm = { s.part.tm with words := q.tm.words } ∧
        (c.table ≠ .config → q.rsq = s.part.rsq) ∧
        (c.table = .config →
          let i := c.first + c.received
          let revised := fun (l : List Count) (length limit : Nat) =>
            let young := l.filter fun t => decide ((s.part.now - t).toNat < length)
            young.drop (young.length - limit)
          let once := if i ≤ 2 ∧ 2 < i + n then
              revised s.part.rsq.window (deliveredField q 2) (deliveredField s.part 3)
            else s.part.rsq.window
          let twice := if i ≤ 3 ∧ 3 < i + n then revised once (deliveredField q 2) (deliveredField q 3) else once
          q.rsq = { s.part.rsq with window := twice })) ∧
    ∀ c, openLoad s.part = some c → c.table = .sectorMap → byteAt fields 0 = c.expectedSeq →
      c.received + n ≤ c.count →
      let first := c.first + c.received
      let held := fun sector : Nat => sequencing s.part = true ∧ s.part.wru.activeSector = some sector
      ∃ q, exec (.loadData src tag fields) s = .next { s with part := arrival (finishEvent q) } ∧
        q = { s.part with ti := ti, tm := q.tm, ma := q.ma } ∧
        q.tm = { s.part.tm with words := q.tm.words, pendingEntry := q.tm.pendingEntry } ∧
        q.ma = { s.part.ma with load := some { c with
          received := c.received + n
          expectedSeq := c.expectedSeq + 1
          crc := crc16 c.crc (fields.drop 1)
          idle := .running 50
          mapClamped := c.mapClamped +
            ((fields.drop 1).filter fun b => decide (7 < b.toNat) && decide (b ≠ 0xFF#8)).length } } ∧
        (∀ i j, i < n → j < 4 →
          let b := byteAt fields (4 * i + j + 1)
          let stored := if b.toNat ≤ 7 then b else 0xFF#8
          let before := wordByte (wordAt s.part (1952 + first + i)).value j
          let after := wordByte (wordAt q (1952 + first + i)).value j
          (¬ held (4 * (first + i) + j) → after = stored) ∧
          (held (4 * (first + i) + j) →
            after = before ∧ q.tm.pendingEntry = some (4 * (first + i) + j, stored))) ∧
        ((∀ i j, i < n → j < 4 → ¬ held (4 * (first + i) + j)) →
          q.tm.pendingEntry = s.part.tm.pendingEntry) ∧
        wordsClean q = true ∧
        ∀ a, a < 1952 + first ∨ 1952 + first + n ≤ a → wordAt q a = wordAt s.part a

/-- R192 to R195, R193's idle expiry: the ends of a load that did not reach validation, the report of an ENDED
context, and the end of a SECTOR-MAP load. R16: a SECTOR-MAP load that fails for any cause leaves NONE in every
entry of its range, under the pending rule of R17. R194: LOAD-ABORT carries no fields. R18: a CONFIG or TURBINE
load that fails in HOLD hands MA the release; that it waits in `releaseDue` for the end of the event is deduced
(log entry 5). -/
def Obligations.LoadsEnd : Prop :=
  let released := fun (p q : Part) (c : LoadCtx) => q.releaseDue =
    if p.ma.mode = .hold ∧ (c.table = .config ∨ c.table = .turbine) then some (p.releaseDue.getD .loadFailed)
    else p.releaseDue
  (∀ (s : State) (c : LoadCtx), wordsClean s.part = true → openLoad s.part = some c → c.idle.isDue = true →
    ∃ q, exec .loadIdleTimeout s = .next { s with part := finishEvent q } ∧
      q.ma.load = some { c with idle := .stopped, ended := some .timeout } ∧
      q.ma.lastLoad = some (c.table, .failed .timeout) ∧ failedLoad c s.part q ∧ released s.part q c ∧
      q.ma.answers = s.part.ma.answers) ∧
  ∀ (src : Addr) (tag : BitVec 16) (fields : List Byte) (s : State), s.part.ma.answers.length < 4 →
    let ti := countedIn .c s.part.ti
    let answer := fun (m : Ma) (result reason : Nat) => Host.Outcome.next (φ := Fault) (ρ := Refusal)
      { s with part := arrival { s.part with
        ti := ti, ma := answered (buildAnswer src tag result reason []) m } }
    let ended := fun (q : Part) (c : LoadCtx) (e : LoadError) => q.ma.load = none ∧
      q.ma.lastLoad = some (c.table, .failed e) ∧ failedLoad c s.part q
    (openLoad s.part = none → exec (.loadAbort src tag fields) s = answer s.part.ma 2 12) ∧
    (wordsClean s.part = true → ∀ c, openLoad s.part = some c →
      ∃ q, exec (.loadAbort src tag fields) s = .next { s with part := arrival (finishEvent q) } ∧
        ended q c .aborted ∧ released s.part q c ∧
        q.ma.answers = s.part.ma.answers ++ [buildAnswer src tag 0 0 []]) ∧
    (2 ≤ fields.length → s.part.ma.load = none → exec (.loadEnd src tag fields) s = answer s.part.ma 2 12) ∧
    (2 ≤ fields.length → ∀ c e, s.part.ma.load = some c → c.ended = some e →
      exec (.loadEnd src tag fields) s = answer { s.part.ma with load := none } 3 (loadErrorCode e)) ∧
    (2 ≤ fields.length → wordsClean s.part = true → ∀ c, openLoad s.part = some c →
      (c.received < c.count →
        ∃ q, exec (.loadEnd src tag fields) s = .next { s with part := arrival (finishEvent q) } ∧
          ended q c .short ∧ released s.part q c ∧ q.ma.answers = s.part.ma.answers ++ [buildAnswer src tag 3 4 []]) ∧
      (c.count ≤ c.received → pairAt fields 0 ≠ c.crc →
        ∃ q, exec (.loadEnd src tag fields) s = .next { s with part := arrival (finishEvent q) } ∧
          ended q c .crc ∧ released s.part q c ∧ q.ma.answers = s.part.ma.answers ++ [buildAnswer src tag 3 5 []]) ∧
      (c.count ≤ c.received → pairAt fields 0 = c.crc → c.table = .sectorMap →
        exec (.loadEnd src tag fields) s =
          .next { s with part := arrival (deferredLeave (finishEvent { s.part with
            ti := ti
            ma := answered (buildAnswer src tag 0 0 [[0#8], [BitVec.ofNat 8 c.mapClamped]])
              { s.part.ma with load := none, lastLoad := some (.sectorMap, .valid c.mapClamped) } })) }))

/-- The ends of loads whose words and CRC agree, every word clean. R6, R7, R20, R70, R122, R192: CONFIG; a clamp of
word 2 or 3 revises the opening window. R9, R15, R20, R172, R192: TURBINE, with the revalidation of the pages and
the return of the fenced turbines. R12 to R14, R20, R192: PAGE. Out-of-range fields are clamped and counted, and
the table becomes VALID by its checks. R170, R192: with one uncorrectable word among those the clamps and checks of
the loaded table read, and every other word clean, the table is INVALID (INTEGRITY), the clamps of the other words
written and counted, and the answer FAILED, INTEGRITY; a config word takes its default, a turbine entry its fence,
no mark being cleared. That nothing is read after the clamp pass has met the word is deduced (log entry 29), and
that a page's reading ends at it the model's choice (log entry 46). That a release waits in `releaseDue` for the
end of the event is deduced (log entry 5). -/
def Obligations.ConfigLoadsAreValidated : Prop :=
  (∀ (src : Addr) (tag : BitVec 16) (fields : List Byte) (s : State) (c : LoadCtx),
    s.part.ma.answers.length < 4 → 2 ≤ fields.length → wordsClean s.part = true →
    openLoad s.part = some c → c.count ≤ c.received → pairAt fields 0 = c.crc →
    let p := s.part
    let done := fun (q : Part) (passes : Prop) (clamped : Nat) =>
      exec (.loadEnd src tag fields) s = .next { s with part := arrival (deferredLeave (finishEvent q)) } ∧
      q.ma.load = none ∧ wordsClean q = true ∧
      (passes → q.ma.lastLoad = some (c.table, .valid clamped) ∧ q.ma.answers = p.ma.answers ++
        [buildAnswer src tag 0 0 [[0#8], [BitVec.ofNat 8 clamped]]]) ∧
      (¬ passes → q.ma.lastLoad = some (c.table, .checkFailed clamped) ∧ q.ma.answers = p.ma.answers ++
        [buildAnswer src tag 3 21 [[21#8], [BitVec.ofNat 8 clamped]]] ∧
        (c.table = .config ∨ c.table = .turbine → p.releaseDue = none → p.ma.mode = .hold →
          q.releaseDue = some .loadFailed))
    (c.table = .config →
      let stored := fun f => (wordAt p f).value.toNat
      let clamped := ((List.range 24).filter fun f => decide (clampField f (stored f) ≠ stored f)).length
      let refs := ([10, 11, 12, 13].map fun f => clampField f (stored f)).filter (· != 0)
      let passes := refs ≠ [] ∧ refs.Nodup ∧ (p.tm.turbine = .valid → ∀ t ∈ refs, turbinePresent p t = true)
      ∃ q, done q passes clamped ∧
        (∀ f, f < 24 → (wordAt q f).value = BitVec.ofNat 32 (clampField f (stored f))) ∧
        (∀ a, 24 ≤ a → wordAt q a = wordAt p a) ∧ q.tm.turbine = p.tm.turbine ∧ q.tm.pages = p.tm.pages ∧
        (let young := p.rsq.window.filter fun t => decide ((p.now - t).toNat < clampField 2 (stored 2))
         q.rsq = if clampField 2 (stored 2) = stored 2 ∧ clampField 3 (stored 3) = stored 3 then p.rsq
           else { p.rsq with window := young.drop (young.length - clampField 3 (stored 3)) }) ∧
        (passes → q.tm.config = .valid ∧ ∀ r u, realignAt p r = some u → realignAt q r =
          some (if u.timer.isRunning then { u with pendingReload := some (clampField 16 (stored 16)) } else u)) ∧
        (¬ passes → q.tm.config = .invalid .checkFailed ∧ q.rau = p.rau)) ∧
    (c.table = .turbine →
      let rate := fun t => ((wordAt p (turbineWordB t)).value.extractLsb' 0 8).toNat
      let ring := fun t => (ringOf (wordAt p (turbineWordA t)).value).toNat
      let owned := fun t : Nat => 1 ≤ t ∧ t ≤ 192 ∧ turbinePresent p t = true
      let clamped := ((List.range 192).filter fun i =>
        turbinePresent p (i + 1) && decide (clampNat 10 100 (rate (i + 1)) ≠ rate (i + 1))).length
      let passes := (∀ t, owned t → 0x0001 ≤ ring t ∧ ring t ≤ 0x7EFF) ∧
        (∀ t u, owned t → owned u → ring t = ring u → t = u) ∧
        (p.tm.config = .valid → ∀ f, f = 10 ∨ f = 11 ∨ f = 12 ∨ f = 13 → deliveredField p f ≠ 0 →
          turbinePresent p (deliveredField p f) = true)
      ∃ q, done q passes clamped ∧ q.tm.config = p.tm.config ∧
        (∀ t, owned t → (wordAt q (turbineWordB t)).value = (wordAt p (turbineWordB t)).value.extractLsb' 8 24 ++
          BitVec.ofNat 8 (clampNat 10 100 (rate t))) ∧
        (∀ a, (∀ t, owned t → a ≠ turbineWordB t) → wordAt q a = wordAt p a) ∧
        (¬ passes → q.tm.turbine = .invalid .checkFailed ∧ q.tm.pages = p.tm.pages ∧ q.tm.fences = p.tm.fences ∧
          q = { p with ti := countedIn .c p.ti, tm := q.tm, ma := q.ma, releaseDue := q.releaseDue }) ∧
        (passes → q.tm.turbine = .valid ∧ (∀ t, fenceMark q t = false) ∧
          (∀ t, 1 ≤ t → t ≤ 192 → turbineRec q t =
            if fenceMark p t = true ∧ condOf p t = .fenced then
              { turbineRec p t with cond := .unseen, misses := 0, abandoned := [] }
            else turbineRec p t) ∧
          (∀ n, n < 8 →
            let sound := structurallySound p n ∧ membershipAgrees p n
            (pageValidity p n = .valid ∨ pageValidity p n = .invalid .checkFailed →
              (sound → pageValidity q n = .valid) ∧ (¬ sound → pageValidity q n = .invalid .checkFailed)) ∧
            (pageValidity p n = .active →
              (sound → pageValidity q n = .active) ∧
              (¬ sound → pageValidity q n = .invalid .checkFailed ∧
                (p.ma.mode ≠ .through → p.releaseDue = none → q.releaseDue = some .revalidation))) ∧
            (pageValidity p n ≠ .valid → pageValidity p n ≠ .active →
              pageValidity p n ≠ .invalid .checkFailed → pageValidity q n = pageValidity p n)))) ∧
    ∀ n, c.table = .page n → n < 8 →
      let passes := structurallySound p n ∧ (p.tm.turbine = .valid → membershipAgrees p n)
      ∃ q p0, done q passes ((pageClamps p n).map fun e => e.2.2).sum ∧
        (∀ e ∈ pageClamps p n, pageWord q n e.1 = e.2.1) ∧
        (∀ a, (∀ e ∈ pageClamps p n, a ≠ pageWordAddr n e.1) → wordAt q a = wordAt p a) ∧
        (passes → pageValidity q n = .valid) ∧ (¬ passes → pageValidity q n = .invalid .checkFailed) ∧
        (∀ k, k ≠ n → pageValidity q k = pageValidity p k) ∧
        q.tm.config = p.tm.config ∧ q.tm.turbine = p.tm.turbine ∧ q.tm.fences = p.tm.fences ∧
        p0 = { p with ti := countedIn .c p.ti, tm := q.tm, ma := { p.ma with load := none } } ∧
        (let r := planCheck p0
         q = { r with ma := q.ma } ∧
         q.ma = { r.ma with lastLoad := q.ma.lastLoad, answers := q.ma.answers })) ∧
  ∀ (src : Addr) (tag : BitVec 16) (fields : List Byte) (s : State) (c : LoadCtx) (a : Nat),
    s.part.ma.answers.length < 4 → 2 ≤ fields.length → openLoad s.part = some c → c.count ≤ c.received →
    pairAt fields 0 = c.crc → checkWord (wordAt s.part a) = .damaged →
    (∀ b, b ≠ a → checkWord (wordAt s.part b) = .clean (wordAt s.part b).value) →
    let p := s.part
    let ended := fun (q : Part) (rd : Reader) (clamped : Nat) =>
      exec (.loadEnd src tag fields) s = .next { s with part := arrival (deferredLeave (finishEvent q)) } ∧
      q.ma.load = none ∧ q.ma.lastLoad = some (c.table, .integrity clamped) ∧
      q.ma.answers = p.ma.answers ++ [buildAnswer src tag 3 22 [[22#8], [BitVec.ofNat 8 clamped]]] ∧
      q.tm.uncorrectable = min 255 (p.tm.uncorrectable + 1) ∧
      (p.tm.captureFrozen = false → q.tm.capture = some { site := siteOf a, reader := rd }) ∧
      (c.table = .config ∨ c.table = .turbine → p.releaseDue = none →
        q.releaseDue = if p.ma.mode = .hold then some .loadFailed else none)
    (c.table = .config → p.tm.config = .loading → a < 24 →
      let stored := fun f => (wordAt p f).value.toNat
      let clamped := ((List.range 24).filter fun f =>
        decide (f ≠ a) && decide (clampField f (stored f) ≠ stored f)).length
      -- a clamp of word 2 has RSQ read word 3 first (R70)
      let reader : Reader := if a = 3 ∧ clampField 2 (stored 2) ≠ stored 2 then .rsq else .check
      ∃ q, ended q reader clamped ∧ q.tm.config = .invalid .integrity ∧ q.tm.turbine = p.tm.turbine ∧
        q.tm.pages = p.tm.pages ∧ q.rau = p.rau ∧ wordAt q a = freshWord (BitVec.ofNat 32 (fieldDefault a)) ∧
        (∀ f, f < 24 → f ≠ a → (wordAt q f).value = BitVec.ofNat 32 (clampField f (stored f))) ∧
        ∀ b, 24 ≤ b → wordAt q b = wordAt p b) ∧
    (c.table = .turbine → p.tm.turbine = .loading → ∀ t, 1 ≤ t → t ≤ 192 →
      a = turbineWordA t ∨ a = turbineWordB t ∧ turbinePresent p t = true →
      let rate := fun t => ((wordAt p (turbineWordB t)).value.extractLsb' 0 8).toNat
      let owned := fun u : Nat => 1 ≤ u ∧ u ≤ 192 ∧ u ≠ t ∧ turbinePresent p u = true
      let clamped := ((List.range 192).filter fun i => decide (i + 1 ≠ t) && turbinePresent p (i + 1) &&
        decide (clampNat 10 100 (rate (i + 1)) ≠ rate (i + 1))).length
      ∃ q, ended q .check clamped ∧ q.tm.turbine = .invalid .integrity ∧ q.tm.config = p.tm.config ∧
        q.tm.pages = p.tm.pages ∧ fenceMark q t = true ∧ (∀ u, u ≠ t → fenceMark q u = fenceMark p u) ∧
        (fenceMark p t = false → stickySet q.ma .turbineFenced = true ∧
          (p.ma.mode ≠ .through → condOf q t = .fenced ∧ slot q t = none)) ∧
        (∀ u, owned u → (wordAt q (turbineWordB u)).value = (wordAt p (turbineWordB u)).value.extractLsb' 8 24 ++
          BitVec.ofNat 8 (clampNat 10 100 (rate u))) ∧
        ∀ b, (∀ u, owned u → b ≠ turbineWordB u) → wordAt q b = wordAt p b) ∧
    ∀ n w, c.table = .page n → n < 8 → pageValidity p n = .loading → p.rsq.activePage ≠ some n →
      a = pageWordAddr n w →
      let clamps := fun skipped : List Nat => (pageClamps p n).filter fun e => !skipped.contains e.1
      let integrity := fun l : List (Nat × Word × Nat) =>
        ∃ q p0, ended q .check (l.map fun e => e.2.2).sum ∧ pageValidity q n = .invalid .integrity ∧
          (∀ e ∈ l, pageWord q n e.1 = e.2.1) ∧
          (∀ b, (∀ e ∈ l, b ≠ pageWordAddr n e.1) → wordAt q b = wordAt p b) ∧
          (∀ k, k ≠ n → pageValidity q k = pageValidity p k) ∧
          q.tm.config = p.tm.config ∧ q.tm.turbine = p.tm.turbine ∧ q.tm.fences = p.tm.fences ∧
          (let met := noteDamaged .check a { p with ti := countedIn .c p.ti, ma := { p.ma with load := none } }
           p0 = { met with tm := q.tm }) ∧
          (let r := planCheck p0
           q = { r with ma := q.ma } ∧
           q.ma = { r.ma with lastLoad := q.ma.lastLoad, answers := q.ma.answers })
      (w = 0 → integrity []) ∧
      (1 ≤ storedRowCount p n → storedRowCount p n ≤ 24 → ∀ r, r < storedRowCount p n →
        (w = rowWord r 0 → integrity (clamps [rowWord r 0, rowWord r 5, rowWord r 6])) ∧
        (w = rowWord r 7 → integrity (clamps [w])) ∧
        (∀ i, i < 2 → i < storedFeederCount p n r → w = rowWord r (5 + i) → integrity (clamps [w])) ∧
        ((∀ r', r' < storedRowCount p n → 1 ≤ storedMemberCount p n r' ∧ storedMemberCount p n r' ≤ 16 ∧
            storedFeederCount p n r' ≤ 2) →
          ∀ i, 4 * i < storedMemberCount p n r → w = rowWord r (1 + i) → integrity (clamps [])))

/-- R150, R151, R117, R85, R134: ENGAGE: its refusals in their order, its idle answer outside THROUGH, and its
effect. -/
def Obligations.Engage : Prop :=
  ∀ (src : Addr) (tag : BitVec 16) (fields : List Byte) (s : State), s.part.ma.answers.length < 4 →
    let ti := countedIn .c s.part.ti
    let answer := fun (result reason : Nat) => Host.Outcome.next (φ := Fault) (ρ := Refusal)
      { s with part := arrival { s.part with
        ti := ti, ma := answered (buildAnswer src tag result reason []) s.part.ma } }
    (s.part.ma.mode ≠ .through → exec (.engage src tag fields) s = answer 0 0) ∧
    (s.part.ma.mode = .through →
      (s.part.tm.config ≠ .valid → exec (.engage src tag fields) s = answer 2 8) ∧
      (s.part.tm.config = .valid → s.part.tm.turbine ≠ .valid →
        exec (.engage src tag fields) s = answer 2 9) ∧
      (s.part.tm.config = .valid → s.part.tm.turbine = .valid → windFresh s.part = false →
        exec (.engage src tag fields) s = answer 2 10) ∧
      (s.part.tm.config = .valid → s.part.tm.turbine = .valid → windFresh s.part = true →
        wordsClean s.part = true →
        let entry := fun a => wordByte (wordAt s.part (1952 + a / 4)).value (a % 4)
        ((∀ a n, s.part.wru.activeSector = some a → entryPage (entry a) = some n →
            pageValidity s.part n ≠ .valid) → exec (.engage src tag fields) s = answer 2 11) ∧
        ∀ a n, s.part.wru.activeSector = some a → entryPage (entry a) = some n →
          pageValidity s.part n = .valid → s.part.canonical = true → s.part.ms.slots = [] →
          let v := deliveredField s.part Field.ctrlSilence
          let rows := rowCountOf (wordAt s.part (pageWordAddr n 0)).value
          let fresh : RowRec := { state := .closed, grace := .stopped, settle := .stopped, lastOpening := none,
                                  holdUntil := s.part.now, moved := false }
          ∃ q, exec (.engage src tag fields) s = .next { s with part := arrival (finishEvent q) } ∧
            q = { s.part with ti := ti, ms := q.ms, rsq := q.rsq, se := q.se, rau := q.rau, tm := q.tm, ma := q.ma } ∧
            q.ma.mode = .engaged ∧ q.ma.holdCause = none ∧ q.ma.exitDeferred = false ∧
            q.ma.silence = (if v = 0 then .stopped else .running v) ∧
            q.ma.answers = s.part.ma.answers ++ [buildAnswer src tag 0 0 []] ∧
            pageValidity q n = .active ∧ (∀ k, k ≠ n → pageValidity q k = pageValidity s.part k) ∧
            sameWords s.part q ∧ q.tm.fences = s.part.tm.fences ∧
            (∀ t, turbineRec q t = { TurbineRec.cold with
              cond := if fenceMark s.part t then .fenced else .unseen }) ∧ q.se.bursts = s.part.se.bursts ∧
            q.rsq = { s.part.rsq with
              activePage := some n
              rows := List.replicate rows fresh } ∧
            q.ms = { s.part.ms with queues := List.replicate rows [] } ∧
            q.rau.records = (List.range rows).map fun r =>
              { timer := .running (deliveredField s.part Field.realignInterval + 50 * r),
                pendingReload := none, credit := 0, exitDue := false, holdDues := 0,
                overrunAlerted := false, round := none }))

/-- R158, R159, R57, R53, R52, R115, R88, R32, R17: DISENGAGE in THROUGH changes nothing; else it returns the part
to THROUGH. Every burst is abandoned, its sequences kept and its turbine's released offset set back to the
confirmed one. Every live move is forwarded, in ascending turbine number: it takes the place of the entry for its
destination, or is appended, the oldest entry of a full list dropped unsent. Over clean words a pending sector-map
entry is written, and with a VALID config block the active sector is set directly from the smoothed direction. A
part without a VALID config block stops WRU, and the change of the active sector to none is alerted, by the model's
choice without a subject (log entry 22). That an entry whose fields a forwarded move replaces is no longer a
trailing AIM is deduced (log entry 26). -/
def Obligations.Disengage : Prop :=
  let put := fun (acc : List FwdEntry × Count) (e : FwdEntry) =>
    if acc.1.any (fun x => x.sp.dst == e.sp.dst) then
      (acc.1.map fun x => if x.sp.dst = e.sp.dst then e else x, acc.2)
    else if acc.1.length < 192 then (acc.1 ++ [e], acc.2)
    else (acc.1.drop 1 ++ [e], acc.2 + 1)
  ∀ (src : Addr) (tag : BitVec 16) (fields : List Byte) (s : State), s.part.ma.answers.length < 4 →
    let ti := countedIn .c s.part.ti
    (s.part.ma.mode = .through → exec (.disengage src tag fields) s = .next { s with part := arrival { s.part with
      ti := ti, ma := answered (buildAnswer src tag 0 0 []) s.part.ma } }) ∧
    (s.part.ma.mode ≠ .through → s.part.canonical = true →
      ∃ q, exec (.disengage src tag fields) s = .next { s with part := arrival (finishEvent q) } ∧
        q.ma.mode = .through ∧ q.ma.holdCause = none ∧ q.ma.exitDeferred = false ∧ q.ma.silence = .stopped ∧
        q.ma.lastRelease = some .disengage ∧ q.ma.releases = s.part.ma.releases ∧
        q.ma.latches = [] ∧ q.ma.load = s.part.ma.load ∧
        q.ma.answers = s.part.ma.answers ++ [buildAnswer src tag 0 0 []] ∧
        q.se.bursts = [] ∧ q.ms.slots = [] ∧ q.ms.queues = [] ∧
        q.ms.forwarded = s.part.ms.forwarded + BitVec.ofNat 32 s.part.ms.slots.length ∧
        q.ms.created = s.part.ms.created ∧ q.ms.done = s.part.ms.done ∧
        (q.ms.forward, q.ms.forwardDropped) =
          (s.part.ms.slots.filterMap fun e => e.2.map fun m => (⟨m.sp, false⟩ : FwdEntry)).foldl put
            (s.part.ms.forward, s.part.ms.forwardDropped) ∧
        (s.part.ms.forward.length + s.part.ms.slots.length ≤ 192 →
          (∀ t u m n, slot s.part t = some m → slot s.part u = some n → m.sp.dst = n.sp.dst → t = u) →
          q.ms.forwardDropped = s.part.ms.forwardDropped ∧
          (∀ t m, slot s.part t = some m → ⟨m.sp, false⟩ ∈ q.ms.forward) ∧
          ∀ e ∈ s.part.ms.forward, (∀ t m, slot s.part t = some m → m.sp.dst ≠ e.sp.dst) → e ∈ q.ms.forward) ∧
        (∀ t b, burstOf s.part t = some b → turbineRec q t = { turbineRec s.part t with
          released := (turbineRec s.part t).confirmed
          abandoned := abandonSeqs (turbineRec s.part t).abandoned b.steps }) ∧
        (∀ t, burstOf s.part t = none → turbineRec q t = turbineRec s.part t) ∧
        q.rau.records = [] ∧ q.rsq.rows = [] ∧ q.rsq.switch = none ∧ q.rsq.activePage = none ∧
        q.rsq.window = s.part.rsq.window ∧
        (∀ n, s.part.rsq.activePage = some n → pageValidity s.part n = .active → pageValidity q n = .valid) ∧
        (∀ n, s.part.rsq.activePage ≠ some n → pageValidity q n = pageValidity s.part n) ∧
        q.wru.excursion = .stopped ∧ q.wru.planMissing = false ∧ q.tm.pendingEntry = none ∧
        q.ti.f = s.part.ti.f ∧ (s.part.tm.config ≠ .valid → q.wru = Wru.cold ∧
          (s.part.wru.activeSector ≠ none → stickySet q.ma .sectorChange = true)) ∧
        (wordsClean s.part = true →
          (s.part.tm.pendingEntry = none → sameWords s.part q) ∧
          (∀ a b, s.part.tm.pendingEntry = some (a, b) →
            (∀ j, j < 4 → wordByte (wordAt q (1952 + a / 4)).value j =
              if j = a % 4 then b else wordByte (wordAt s.part (1952 + a / 4)).value j) ∧
            ∀ w, w ≠ 1952 + a / 4 → wordAt q w = wordAt s.part w) ∧
          (s.part.tm.config = .valid →
            q.wru = { s.part.wru with
              excursion := .stopped
              planMissing := false
              activeSector := (smoothedDirection s.part.wru).map (· / 225) } ∧
            (q.wru.activeSector ≠ s.part.wru.activeSector → stickySet q.ma .sectorChange = true))))

/-- R153, R154, R152: HOLD by command and by controller silence, and a HOLD request in each mode. -/
def Obligations.Hold : Prop :=
  ∀ (s : State), let p := s.part
    let held := fun (q : Part) (c : HoldCause) =>
      q.ma.mode = .hold ∧ q.ma.holdCause = some c ∧ q.ma.silence = .stopped ∧
      q.ma.exitDeferred = p.ma.exitDeferred ∧
      q.ma.holdsByCommand = p.ma.holdsByCommand + (if c = .command then 1 else 0) ∧
      q.ma.holdsBySilence = p.ma.holdsBySilence + (if c = .silence then 1 else 0) ∧
      (∀ r, rowIs q r .opened = false) ∧ (∀ u ∈ q.rau.records, u.holdDues = 0) ∧
      stickySet q.ma .holdEntered = true ∧ q.rsq.switch = p.rsq.switch ∧ q.wru = p.wru ∧
      (wordsClean p = true →
        q.rau = { p.rau with records := p.rau.records.map fun u => { u with holdDues := 0 } } ∧
        (p.rsq.activePage ≠ none → ∀ r, rowIs q r .draining = true → burstCount q r ≠ 0) ∧
        q.ma.alertSeq = p.ma.alertSeq + 1 ∧ q.rsq.window = p.rsq.window ∧ q.tm = p.tm ∧ q.ti.f = p.ti.f)
    (p.ma.mode = .engaged → p.ma.silence.isDue = true →
      ∃ q, exec .silenceExpiry s = .next { s with part := finishEvent q } ∧ held q .silence ∧
        q.ma.answers = p.ma.answers) ∧
    ∀ (src : Addr) (tag : BitVec 16) (fields : List Byte), p.ma.answers.length < 4 →
      (p.ma.mode = .through → exec (.hold src tag fields) s = .next { s with part := arrival { p with
        ti := countedIn .c p.ti, ma := answered (buildAnswer src tag 2 7 []) p.ma } }) ∧
      (p.ma.mode = .engaged →
        ∃ q, exec (.hold src tag fields) s = .next { s with part := arrival (finishEvent q) } ∧ held q .command ∧
          q.ma.answers = p.ma.answers ++ [buildAnswer src tag 0 0 []]) ∧
      (p.ma.mode = .hold → exec (.hold src tag fields) s = .next { s with part := arrival { p with
        ti := countedIn .c p.ti
        ma := answered (buildAnswer src tag 0 0 [])
          { p.ma with holdCause := some .command, exitDeferred := false } } })

/-- R156, R157, R133: RELEASE in each mode: refused, idle, deferred by an open CONFIG or TURBINE load, or a leave
for ENGAGED with every hold due discarded and an exit round due on every row not FENCED, after which RAU tests for
the rounds now due (8.8, time 150). -/
def Obligations.Release : Prop :=
  ∀ (src : Addr) (tag : BitVec 16) (fields : List Byte) (s : State), s.part.ma.answers.length < 4 →
    let ti := countedIn .c s.part.ti
    let answer := fun (m : Ma) (result reason : Nat) => Host.Outcome.next (φ := Fault) (ρ := Refusal)
      { s with part := arrival { s.part with
        ti := ti, ma := answered (buildAnswer src tag result reason []) m } }
    (s.part.ma.mode = .through → exec (.release src tag fields) s = answer s.part.ma 2 7) ∧
    (s.part.ma.mode = .engaged → exec (.release src tag fields) s = answer s.part.ma 0 0) ∧
    (s.part.ma.mode = .hold →
      (s.part.ma.exitDeferred = true → exec (.release src tag fields) s = answer s.part.ma 0 0) ∧
      (s.part.ma.exitDeferred = false → loadHoldsMode s.part = true →
        exec (.release src tag fields) s = .next { s with part := arrival (finishEvent { s.part with
          ti := ti
          ma := answered (buildAnswer src tag 0 0 []) { s.part.ma with exitDeferred := true } }) }) ∧
      (s.part.ma.exitDeferred = false → loadHoldsMode s.part = false → wordsClean s.part = true →
        let v := deliveredField s.part Field.ctrlSilence
        ∃ q0 q, exec (.release src tag fields) s = .next { s with part := arrival (finishEvent q0) } ∧
          q0 = { startRounds 24 q with ma := answered (buildAnswer src tag 0 0 []) (startRounds 24 q).ma } ∧
          (startRounds 24 q).ma = q.ma ∧
          q = { s.part with ti := { ti with c := q.ti.c }, rau := q.rau, ma := q.ma } ∧
          q.ma.mode = .engaged ∧ q.ma.holdCause = none ∧ q.ma.exitDeferred = false ∧
          q.ma.silence = (if v = 0 then .stopped else .running v) ∧ stickySet q.ma .holdLeft = true ∧
          q.ma.answers = s.part.ma.answers ∧
          (∀ r u, r < s.part.rsq.rows.length → realignAt s.part r = some u → realignAt q r =
            some { u with holdDues := 0, exitDue := u.exitDue || !rowIs s.part r .fenced }) ∧
          ∀ r, r < s.part.rsq.rows.length → rowIs q r .fenced = false → permission q r = false))

/-- R198, R116, R136: both clear kinds. -/
def Obligations.Clear : Prop :=
  ∀ (src : Addr) (tag : BitVec 16) (fields : List Byte) (s : State), s.part.ma.answers.length < 4 →
    2 ≤ fields.length →
    let ti := countedIn .c s.part.ti
    let t := (byteAt fields 1).toNat
    let answer := fun (result reason : Nat) => Host.Outcome.next (φ := Fault) (ρ := Refusal)
      { s with part := arrival { s.part with
        ti := ti, ma := answered (buildAnswer src tag result reason []) s.part.ma } }
    (byteAt fields 0 = 0#8 → exec (.clearStickyFlags src tag fields) s =
      .next { s with part := arrival { s.part with
        ti := ti
        rau := { s.part.rau with records := s.part.rau.records.map fun u => { u with overrunAlerted := false } }
        ma := answered (buildAnswer src tag 0 0 []) { s.part.ma with sticky := 0 } } }) ∧
    (byteAt fields 0 = 1#8 →
      (t < 1 ∨ 192 < t → exec (.clearSuspectCondition src tag fields) s = answer 2 17) ∧
      (1 ≤ t → t ≤ 192 → condOf s.part t ≠ .suspect →
        exec (.clearSuspectCondition src tag fields) s = answer 2 20) ∧
      (1 ≤ t → t ≤ 192 → condOf s.part t = .suspect →
        ∃ q, exec (.clearSuspectCondition src tag fields) s = .next { s with part := arrival q } ∧
          q = { s.part with
            ti := ti
            se := { s.part.se with turbines := q.se.turbines }
            ma := answered (buildAnswer src tag 0 0 []) s.part.ma } ∧
          turbineRec q t = { turbineRec s.part t with cond := .normal, misses := 0, abandoned := [] } ∧
          ∀ u, u ≠ t → turbineRec q u = turbineRec s.part u))

/-- R199, R161, R60, R119, R135, R89, R38, R173, R183, R201, R162: RESET: what the warm reset keeps and clears,
over clean words. R22: every table keeps its words and its validity, but for the pending sector-map entry, which is
written, and for an OPEN load, whose table becomes INVALID (LOAD-FAILED), with NONE in the range of a SECTOR-MAP
load, no plan check being run (deduced, log entry 17). R183, R181: an insertion queue being sent keeps its first
frame alone, any other is emptied, and TI's counters stay; R60, R137: MS's counters stay, RSQ's are 0. R174: a
frame the reset cuts off at a port is received and dropped as bad; that the command says whether there is one is
the model's choice (log entry 13). That the RESET answer stands alone in the answer list, with the C-bound queue
empty, is deduced (log entry 15). -/
def Obligations.WarmReset : Prop :=
  ∀ (src : Addr) (tag : BitVec 16) (fields : List Byte) (cutC cutF : Bool) (s : State),
    s.part.ma.answers.length < 4 → wordsClean s.part = true →
    (s.part.ma.mode ≠ .through → s.part.rsq.activePage ≠ none) →
    let p := s.part
    let cut := fun b : Bool => if b then (1 : Count) else 0
    ∃ q, exec (.reset src tag ⟨fields, cutC, cutF⟩) s = .next { s with part := arrival (finishEvent q) } ∧
      q.ma.mode = (if p.ma.mode = .through then .through else .hold) ∧
      (p.ma.mode ≠ .through → q.ma.holdCause = some .command) ∧
      (p.ma.mode = .through → q.ma.holdCause = p.ma.holdCause) ∧
      q.ma.exitDeferred = false ∧ q.ma.silence = .stopped ∧ q.ma.load = none ∧ q.ma.latches = [] ∧
      q.ma.sticky = 0 ∧ q.ma.alertSeq = p.ma.alertSeq ∧ q.ma.lastRelease = p.ma.lastRelease ∧
      q.ma.releases = p.ma.releases ∧ q.ma.holdsByCommand = p.ma.holdsByCommand ∧
      q.ma.holdsBySilence = p.ma.holdsBySilence ∧ q.ma.droppedAlerts = p.ma.droppedAlerts ∧
      q.ma.requestsDropped = p.ma.requestsDropped ∧ q.ma.requestsMalformed = p.ma.requestsMalformed ∧
      q.ma.answers = [buildAnswer src tag 0 0 []] ∧
      (let aborted := fun tb : Table => ∃ c, openLoad p = some c ∧ c.table = tb
       let blanked := fun x : Nat => ∃ c, openLoad p = some c ∧ c.table = .sectorMap ∧ 1952 + c.first ≤ x ∧
         x < 1952 + c.first + c.count
       (aborted .config → q.tm.config = .invalid .loadFailed) ∧ (¬ aborted .config → q.tm.config = p.tm.config) ∧
       (aborted .turbine → q.tm.turbine = .invalid .loadFailed) ∧
       (¬ aborted .turbine → q.tm.turbine = p.tm.turbine) ∧
       (∀ n, p.rsq.activePage ≠ some n → (aborted (.page n) → pageValidity q n = .invalid .loadFailed) ∧
         (¬ aborted (.page n) → pageValidity q n = pageValidity p n)) ∧
       wordsClean q = true ∧ (∀ x, blanked x → wordAt q x = freshWord 0xFFFFFFFF#32) ∧
       ∀ x, ¬ blanked x →
         (∀ e b, p.tm.pendingEntry = some (e, b) → x = 1952 + e / 4 →
           ∀ j, j < 4 → wordByte (wordAt q x).value j = if j = e % 4 then b else wordByte (wordAt p x).value j) ∧
         ((∀ e b, p.tm.pendingEntry = some (e, b) → x ≠ 1952 + e / 4) → wordAt q x = wordAt p x)) ∧
      (∀ c, openLoad p = some c → q.ma.lastLoad = some (c.table, .failed .aborted)) ∧
      (openLoad p = none → q.ma.lastLoad = p.ma.lastLoad) ∧
      q.ms = { p.ms with
        slots := [], queues := List.replicate q.rsq.rows.length [], forward := [], inFlight := []
        discarded := p.ms.discarded + BitVec.ofNat 32 p.ms.slots.length } ∧
      (∀ t, turbineRec q t = TurbineRec.cold) ∧ q.se = Se.cold ∧
      q.rau = { Rau.cold with roundNumber := p.rau.roundNumber, records := q.rau.records } ∧
      q.wru = Wru.cold ∧
      q.rsq = { activePage := q.rsq.activePage, rows := q.rsq.rows, window := [], switch := none,
                switchesBegun := 0, retargets := 0, cancellations := 0, switchesTaken := 0,
                switchesForced := 0 } ∧
      (∀ t, fenceMark q t = false) ∧ q.now = p.now ∧ q.releaseDue = p.releaseDue ∧
      q.startsDue = p.startsDue ∧ q.tm.lastCorrectable = p.tm.lastCorrectable ∧
      q.tm.correctable = p.tm.correctable ∧ q.tm.uncorrectable = p.tm.uncorrectable ∧
      q.tm.capture = p.tm.capture ∧ q.tm.captureFrozen = p.tm.captureFrozen ∧
      q.tm.scrubPointer = p.tm.scrubPointer ∧ q.tm.scrubTimer = p.tm.scrubTimer ∧
      q.tm.pendingEntry = none ∧
      (let reset := fun (old : PortState) (n bad : Count) => { old with
         received := old.received + n + bad
         droppedBad := old.droppedBad + bad
         insertion := if old.sending = some .insertion then old.insertion.take 1 else []
         servedLast := .insertion }
       q.ti = { p.ti with c := reset p.ti.c 1 (cut cutC), f := reset p.ti.f 0 (cut cutF) }) ∧
      (p.ma.mode = .through → q.rsq.rows = [] ∧ q.rsq.activePage = none) ∧
      ∀ n, p.ma.mode ≠ .through → p.rsq.activePage = some n →
        q.rsq.activePage = some n ∧ pageValidity q n = .active ∧
        (∀ r, r < rowCountOf (wordAt q (pageWordAddr n 0)).value → rowAt q r = some (freshRow p.now) ∧
          ∃ u, realignAt q r = some u ∧ u.exitDue = true ∧ u.credit = 0 ∧ u.holdDues = 0)

/-! ### What the part does as room and time allow -/

/-- R52, R180, R184: the oldest forward-list entry and the oldest answer are handed over when their places are
free, and wait when they are not. R181: an output that is free chooses its source as the first frame comes, and one
that sends goes on with it; that it does not wait for a later frame is the model's choice (log entry 62). -/
def Obligations.Handovers : Prop :=
  ∀ s : State, let p := s.part
    (∀ e l, p.ms.forward = e :: l →
      (p.ti.f.insertion.length < 32 →
        let frame : Frame := { dst := e.sp.dst, src := e.sp.src, kind := 0x21#8,
                               payload := be16 e.sp.tag ++ be16 (BitVec.ofInt 16 e.sp.target) ++
                                 [modeCode e.sp.mode, urgencyCode e.sp.urgency] }
        exec .forwardEntryHandover s = .next { s with part := { p with
          ti := { p.ti with f := chooseSource { p.ti.f with
            insertion := p.ti.f.insertion ++ [⟨frame, .forwarded e.trailing⟩] } }
          ms := { p.ms with forward := l, inFlight := p.ms.inFlight ++ [e.sp.dst] } } }) ∧
      (32 ≤ p.ti.f.insertion.length → exec .forwardEntryHandover s = .next s)) ∧
    ∀ a l, p.ma.answers = a :: l →
      (p.ti.c.insertion.length + a.parts.length ≤ 8 →
        let frames : List QFrame := a.parts.map fun x =>
          { frame := { dst := a.dst, src := ownAddress p, kind := 0x42#8, payload := x }, origin := .response }
        exec .answerHandover s = .next { s with part := { p with
          ti := { p.ti with c := if a.parts = [] then p.ti.c
            else chooseSource { p.ti.c with insertion := p.ti.c.insertion ++ frames } }
          ma := { p.ma with answers := l } } }) ∧
      (8 < p.ti.c.insertion.length + a.parts.length → 0 < a.parts.length → exec .answerHandover s = .next s)

/-- R99, R101, R102, R96: the waiting burst of lowest turbine number releases one step into the free place. The
step release test changes nothing for a burst that does not wait; for one that does, the free places go to the
waiting bursts in ascending turbine number, one step into each place, until none waits. A burst that releases
nothing lets the place go to the next: with a yaw rate it cannot read of an entry that does not count it goes on
waiting, by the model's choice (log entry 51). That the command changes nothing with none waiting is the model's
choice (log entry 1). That a free output chooses its source as each frame comes is the model's choice (log entry
62). -/
def Obligations.StepRelease : Prop :=
  (∀ s : State, waitingBursts s.part = [] → exec .stepRelease s = .next s) ∧
  (∀ s : State, waitingBursts s.part ≠ [] → exec .stepRelease s =
    .next { s with part := finishEvent (offerPlace (waitingBursts s.part) s.part) }) ∧
  (∀ (t : Nat) (p : Part), (t ∉ waitingBursts p → releaseSteps t p = p) ∧
    (t ∈ waitingBursts p → releaseSteps t p = serveBursts 48 p)) ∧
  (∀ p : Part, (waitingBursts p).Pairwise (· ≤ ·) ∧ (∀ k, waitingBursts p = [] → serveBursts k p = p) ∧
    (∀ k t l, wordsClean p = true → waitingBursts p = t :: l →
      serveBursts (k + 1) p = serveBursts k (releaseStep t p)) ∧
    (∀ k, let q := offerPlace (waitingBursts p) p
      serveBursts (k + 1) p = if q.se.stepsReleased = p.se.stepsReleased then q else serveBursts k q) ∧
    (∀ t l, let q := releaseStep t p
      offerPlace (t :: l) p = if q.se.stepsReleased = p.se.stepsReleased then offerPlace l q else q) ∧
    (wordsClean p = true → waitingBursts (serveBursts 48 p) = [])) ∧
  ∀ (s : State) (t : Nat) (b : Burst) (m : Move), wordsClean s.part = true →
    t ∈ waitingBursts s.part → burstOf s.part t = some b → slot s.part t = some m →
    let p := s.part
    let x := turbineRec p t
    let size : Nat := if m.sp.mode = .chop then 20 else 40
    let d := m.sp.target - x.released
    let cmd : Int := if d.natAbs ≤ size then m.sp.target else if 0 < d then x.released + size else x.released - size
    let y := yawRateOf (wordAt p (turbineWordB t)).value
    let timeout := (100 * (cmd - x.released).natAbs + (y - 1)) / y + deliveredField p Field.stepMargin
    let step : Step := { seq := x.nextSeq, commanded := cmd, timeout := timeout, timer := .stopped }
    let frame : Frame := { dst := m.sp.dst, src := ownAddress p, kind := 0x22#8,
                           payload := be16 m.sp.tag ++ [x.nextSeq.setWidth 8] ++ be16 (BitVec.ofInt 16 cmd) ++
                             [modeCode m.sp.mode] }
    b.phase = .running ∧ b.steps.length < 2 ∧ x.released ≠ m.sp.target ∧ p.ti.f.insertion.length < 32 ∧
    ∃ q, (∀ l, waitingBursts p = t :: l → exec .stepRelease s = .next { s with part := finishEvent q }) ∧
      q = releaseStep t p ∧
      q = { p with ti := { p.ti with f := q.ti.f }, se := q.se } ∧
      q.ti.f = chooseSource { p.ti.f with insertion := p.ti.f.insertion ++ [⟨frame, .step⟩] } ∧
      turbineRec q t = { x with
        released := cmd
        nextSeq := x.nextSeq + 1
        abandoned := x.abandoned.filter (· != x.nextSeq) } ∧
      (∀ u, u ≠ t → turbineRec q u = turbineRec p u ∧ burstOf q u = burstOf p u) ∧
      burstOf q t = some { b with steps := armOldest b.lock (b.steps ++ [step]) } ∧
      (b.steps = [] → b.lock = false →
        burstOf q t = some { b with steps := [{ step with timer := .running timeout }] }) ∧
      q.se.stepsReleased = p.se.stepsReleased + 1 ∧ (1 ≤ timeout ∧ timeout ≤ 1000)

/-- R98 to R100, R48, R71, R114: the free places go to the RUNNING bursts that wait, then bursts start one by one,
each for the OPEN row of lowest index that meets the conditions, with the head startable entry, until none can
start; a turbine last seen LOCKED starts PAUSED and releases nothing; a burst that starts at its target is done at
once. R99, R114, R108: once a record has freed, or a gust pause has ended, RSQ's tests (R73, R143) and then SE's
arbiter follow within the event. That the places of RAU's and RSQ's own reactions in such an event are before and
after it is deduced (log entry 8), and that other causes of a start wait for the command is the model's choice (log
entry 11). -/
def Obligations.BurstStart : Prop :=
  (∀ s : State,
    exec .burstStart s = .next { s with part := finishEvent (startBursts 384 (serveBursts 48 s.part)) }) ∧
  (∀ (s : State) (n r t : Nat) (m : Move) (row : RowRec), wordsClean s.part = true →
    waitingBursts s.part = [] → s.part.rsq.activePage = some n → rowAt s.part r = some row →
    burstMayStart s.part n r = true → (∀ r', r' < r → burstMayStart s.part n r' = false) →
    headStartable s.part r = some t → slot s.part t = some m → burstOf s.part t = none →
    let p := s.part
    let g := graceOf (wordAt p (pageWordAddr n (rowWord r 7))).value
    let x := turbineRec p t
    ∃ q, exec .burstStart s = .next { s with part := finishEvent (startBursts 383 q) } ∧
      (∀ k, startBursts (k + 1) p = startBursts k q) ∧ wordsClean q = true ∧ q.rsq.activePage = some n ∧
      (∀ u, u ≠ t → slot q u = slot p u) ∧ (∀ r', queueAt q r' = (queueAt p r').filter (· != t)) ∧
      rowAt q r = some { row with grace := .running g } ∧ (∀ r', r' ≠ r → rowAt q r' = rowAt p r') ∧
      (∀ u, u ≠ t → burstOf q u = burstOf p u ∧ turbineRec q u = turbineRec p u) ∧
      q = { p with
        ti := { p.ti with f := q.ti.f }
        ms := { p.ms with slots := q.ms.slots, queues := q.ms.queues, done := q.ms.done }
        rsq := { p.rsq with rows := q.rsq.rows }
        se := q.se
        startsDue := q.startsDue } ∧
      (m.sp.target = x.released → burstOf q t = none ∧ slot q t = none ∧ q.ms.done = p.ms.done + 1 ∧
        q.ti = p.ti ∧ turbineRec q t = x ∧ q.se.stepsReleased = p.se.stepsReleased ∧ q.startsDue = true) ∧
      (m.sp.target ≠ x.released → q.ms.done = p.ms.done ∧ q.startsDue = p.startsDue ∧
        slot q t = some { m with phase := .burst } ∧ ∃ b, burstOf q t = some b ∧
        b.row = r ∧ b.turbine = t ∧ b.gust = false ∧ b.lockReached = false ∧
        (x.yaw ≠ some .locked → b.phase = .running ∧ b.lock = false ∧ b.steps ≠ [] ∧
          b.steps.length ≤ 2 ∧ q.se.stepsReleased = p.se.stepsReleased + BitVec.ofNat 32 b.steps.length ∧
          q.ti.f.insertion.length = p.ti.f.insertion.length + b.steps.length) ∧
        (x.yaw = some .locked → b.phase = .paused ∧ b.lock = true ∧ b.steps = [] ∧
          b.lockTimer = .running (deliveredField p Field.lockLimit) ∧ q.ti = p.ti ∧ turbineRec q t = x))) ∧
  (∀ (p : Part) (n : Nat), wordsClean p = true → p.rsq.activePage = some n →
    (p.ms.queues.map List.length).sum ≤ 384 →
    (∀ r, burstMayStart (startBursts 384 p) n r = false) ∧
    ((∀ r, burstMayStart p n r = false) → ∀ k, startBursts k p = p)) ∧
  ∀ p : Part,
    let q := takeTest (settleRows p)
    (p.startsDue = false → runStartsDue p = p) ∧
    (p.startsDue = true → runStartsDue p = settleStarts 400 p) ∧
    (q.startsDue = false → ∀ k, settleStarts k p = q) ∧
    (q.startsDue = true → ∀ k, settleStarts (k + 1) p =
      settleStarts k (startBursts 384 (serveBursts 48 { q with startsDue := false }))) ∧
    (sequencing p = true → p.rau.records.any roundAnswered = false →
      finishEvent p = guardWru { carryOutRelease (settleStarts 400 p) with startsDue := false })

/-- R125 to R127: the first row on which a round is due, when it can start, takes its round. R130 step 4, R125: the
test for further rounds leaves no row whose round could start, but for one held back for want of places. A member
whose stored entry shows it absent leaves the round and gets no frame, since R8 lets no block read its ring address:
the model's choice (log entry 42). -/
def Obligations.RoundStart : Prop :=
  (∀ (s : State) (r : Nat) (k : RoundKind) (ms : List Nat) (u : RealignRec), wordsClean s.part = true →
    sequencing s.part = true → r < s.part.rsq.rows.length → realignAt s.part r = some u →
    (∀ r', r' < r → roundDue s.part r' = none) → roundDue s.part r = some k →
    rowIs s.part r .closed = true → s.part.rsq.switch = none → (rowMembers .rau r s.part).1 = some ms →
    let p := s.part
    let ts := ascending (ms.filter (affirmable p))
    ts ≠ [] → p.ti.f.insertion.length + ts.length ≤ 32 →
    let number := p.rau.roundNumber + 1
    ∃ q, exec .roundStart s = .next { s with part := finishEvent q } ∧
      q = startFirstRound (rowIndices p) p ∧
      q = { p with ti := { p.ti with f := q.ti.f }, rsq := q.rsq, rau := q.rau } ∧
      realignAt q r = some { u with
        round := some {
          kind := k
          number := number
          timer := .running (deliveredField p Field.affirmLimit)
          entries := (ts.filter (turbinePresent p)).map fun t =>
            { turbine := t, sent := (turbineRec p t).released, status := .pending } }
        holdDues := if k = .hold then u.holdDues - 1 else u.holdDues } ∧
      (∀ r', r' ≠ r → realignAt q r' = realignAt p r' ∧ rowAt q r' = rowAt p r') ∧
      rowIs q r .affirming = true ∧ q.rau.roundNumber = number ∧
      q.rau.roundsStarted = p.rau.roundsStarted + 1 ∧
      q.rau.affirmsSent = p.rau.affirmsSent + BitVec.ofNat 32 (ts.filter (turbinePresent p)).length ∧
      q.ti.f.insertion = p.ti.f.insertion ++ (ts.filter (turbinePresent p)).map fun t =>
        { frame := { dst := ringOf (wordAt p (turbineWordA t)).value, src := ownAddress p, kind := 0x23#8,
                     payload := number :: be16 (BitVec.ofInt 16 (turbineRec p t).released) },
          origin := .affirm }) ∧
  ∀ p : Part, wordsClean p = true → sequencing p = true → p.rsq.rows.length ≤ 24 →
    let q := startRounds 24 p
    let ready := fun (r : Nat) (ts : List Nat) => (roundDue q r).isSome = true ∧ rowIs q r .closed = true ∧
      q.rsq.switch = none ∧ ts ≠ [] ∧
      ∃ ms, (rowMembers .rau r q).1 = some ms ∧ ts = ascending (ms.filter (affirmable q))
    ∀ r ts, ready r ts → ∃ r' ts', r' ≤ r ∧ ready r' ts' ∧ 32 < q.ti.f.insertion.length + ts'.length

/-- R67, R66: an opening goes to the eligible row of lowest index; the times of R66 run the arbiter. -/
def Obligations.Openings : Prop :=
  (∀ (s : State) (n r : Nat) (row : RowRec), wordsClean s.part = true → s.part.rsq.activePage = some n →
    rowAt s.part r = some row → (eligible r s.part).1 = true →
    (∀ r', r' < r → (eligible r' s.part).1 = false) →
    let p := s.part
    exec .opening s = .next { s with part := finishEvent { p with rsq := { p.rsq with
      window := p.rsq.window ++ [p.now]
      rows := p.rsq.rows.set r { row with
        state := .opened
        lastOpening := some p.now
        moved := false
        grace := .running (graceOf (wordAt p (pageWordAddr n (rowWord r 7))).value) } } } }) ∧
  ∀ (s : State) (r : Nat) (row : RowRec), rowAt s.part r = some row → row.state = .closed →
    (s.part.now = row.holdUntil →
      exec (.holdUntilReached r) s = .next { s with part := finishEvent (runArbiter 24 s.part) }) ∧
    (∀ t, wordsClean s.part = true → row.lastOpening = some t →
      s.part.now = t + BitVec.ofNat 32 (deliveredField s.part Field.rowCycle) →
      exec (.rowCycleElapsed r) s = .next { s with part := finishEvent (runArbiter 24 s.part) })

/-! ### Expiries -/

/-- R61, R69: the age bounds of a row's times (their upper end is the model's choice, log entry 16), and the
opening window entries that have reached WindowLength. -/
def Obligations.TimesAgeOut : Prop :=
  (∀ (s : State) (r : Nat) (row : RowRec), rowAt s.part r = some row →
    let p := s.part
    let old := fun t : Count => 1073741824 ≤ (p.now - t).toNat ∧ (p.now - t).toNat < 2147483648
    exec (.holdUntilAgeBound r) s = .next { s with part := { p with rsq := { p.rsq with
      rows := p.rsq.rows.set r { row with
        holdUntil := if old row.holdUntil then p.now else row.holdUntil } } } } ∧
    (∀ t, row.lastOpening = some t → exec (.lastOpeningAgeBound r) s = .next { s with part := { p with
      rsq := { p.rsq with rows := p.rsq.rows.set r { row with
        lastOpening := if old t then none else some t } } } }) ∧
    (row.lastOpening = none → exec (.lastOpeningAgeBound r) s = .next s)) ∧
  ∀ (s : State) (t : Count) (l : List Count), wordsClean s.part = true → s.part.rsq.window = t :: l →
    let p := s.part
    let age := fun x : Count => (p.now - x).toNat
    let length := deliveredField p Field.windowLength
    length ≤ age t →
    exec .windowEntryExpiry s = .next { s with part := finishEvent { p with rsq := { p.rsq with
      window := (t :: l).filter fun x => decide (age x < length) } } }

/-- R29, R31, R72, R108, R34, R17: the expiries of the wind: stale with its alert; the end of a gust pause, every
frozen grace timer running on, every GUST cause cleared, the places offered to the RUNNING bursts in ascending
turbine number, and SE's arbiter due for the burst starts held back (that it runs at the end of the event is
deduced, log entry 8); the pending sector-map entry written, the active sector changed to the candidate with its
alert, and then the plan check. -/
def Obligations.WindExpiries : Prop :=
  ∀ s : State, let p := s.part
    (p.wru.freshness.isDue = true →
      let stale := { p with wru := { p.wru with freshness := .stopped } }
      exec .freshnessExpiry s = .next { s with part := raiseAlert .windStale .nothing stale }) ∧
    (p.wru.gust.isDue = true →
      let cleared : Part := { p with
        wru := { p.wru with gust := .stopped }
        rsq := { p.rsq with rows := p.rsq.rows.map fun row => { row with grace := row.grace.thaw } }
        se := { p.se with bursts := p.se.bursts.map fun b => { b with
          gust := false
          phase := if b.phase = .paused ∧ b.lock = false then .running else b.phase } } }
      exec .gustTimerExpiry s =
        .next { s with part := finishEvent (serveBursts 48 { cleared with startsDue := true }) }) ∧
    (p.wru.excursion.isDue = true → p.wru.seeded = true → wordsClean p = true →
      let d := (p.wru.dirAcc + 8) / 16 % 3600
      ∃ q : Part, exec .excursionExpiry s = .next { s with part := finishEvent (planCheck
          (raiseAlert .sectorChange (.sector (d / 225)) q)) } ∧
        q = { p with tm := q.tm, wru := { p.wru with excursion := .stopped, activeSector := some (d / 225) } } ∧
        wordsClean q = true ∧
        (p.tm.pendingEntry = none → q.tm = p.tm) ∧
        ∀ a b, p.tm.pendingEntry = some (a, b) →
          q.tm = { p.tm with words := q.tm.words, pendingEntry := none } ∧
          (∀ j, j < 4 → wordByte (wordAt q (1952 + a / 4)).value j =
            if j = a % 4 then b else wordByte (wordAt p (1952 + a / 4)).value j) ∧
          ∀ x, x ≠ 1952 + a / 4 → wordAt q x = wordAt p x)

/-- R71, R78, R113, R114: a grace expiry drains the row; a burst that this frees hands its move back done, or
requeued when it is short of its target or its lock limit was reached. R73, R78: over clean words an OPEN row with
nothing to do drains, and a DRAINING row with no burst becomes SETTLING with the page's settle value loaded, or at
0 CLOSED with the actions of R79; afterwards no such row is left. R79, R77: a settle expiry closes it and, when it
moved, raises the hold-until of the rows below that list it. -/
def Obligations.GraceAndSettleExpiries : Prop :=
  (∀ (p : Part) (n : Nat), wordsClean p = true → p.rsq.activePage = some n →
    (settleRows p = (List.range p.rsq.rows.length).foldl (fun q r => settleRow r q) p ∧
      ∀ r, rowUnsettled (settleRows p) r = false) ∧
    ∀ r row, rowAt p r = some row →
      let settle := settleOf (wordAt p (pageWordAddr n (rowWord r 7))).value
      let idle := burstCount p r = 0 ∧ (row.state = .draining ∨ row.state = .opened ∧ startableCount p r = 0)
      let drained := { row with
        state := .draining
        grace := if row.state = .opened then .stopped else row.grace }
      let put := fun x : RowRec => ({ p with rsq := { p.rsq with rows := p.rsq.rows.set r x } } : Part)
      (¬ idle → settleRow r p = p) ∧
      (idle → 0 < settle →
        settleRow r p = put { drained with state := .settling, settle := .running settle }) ∧
      (idle → settle = 0 → settleRow r p = closeRow r (put drained))) ∧
  ∀ (s : State) (r : Nat) (row : RowRec), rowAt s.part r = some row →
    let p := s.part
    (row.state = .opened → row.grace.isDue = true →
      ∃ q, exec (.graceExpiry r) s = .next { s with part := finishEvent q } ∧
        rowAt q r = some { row with state := .draining, grace := .stopped } ∧
        (∀ r', r' ≠ r → rowAt q r' = rowAt p r') ∧
        (∀ t b, burstOf p t = some b → b.row = r → (∀ c ∈ p.se.bursts, c.turbine = t → c = b) →
          b.steps ≠ [] → burstOf q t = some { b with phase := .ending }) ∧
        (∀ t b m, burstOf p t = some b → b.row = r → (∀ c ∈ p.se.bursts, c.turbine = t → c = b) →
          b.steps = [] → slot p t = some m → burstOf q t = none ∧ q.startsDue = true ∧
            let done := (turbineRec p t).released = m.sp.target ∧ b.lockReached = false
            (done → slot q t = none ∧ ∀ r', t ∉ queueAt q r') ∧
            (¬ done → m.phase = .burst → slot q t = some { m with phase := .queued, resumed := true } ∧
              (r < p.ms.queues.length → t ∈ queueAt q r))) ∧
        (∀ t, (∀ b ∈ p.se.bursts, b.turbine = t → b.row ≠ r) → slot q t = slot p t) ∧
        (∀ t b, burstOf p t = some b → b.row ≠ r → (∀ c ∈ p.se.bursts, c.turbine = t → c = b) →
          burstOf q t = some b) ∧
        q.se.turbines = p.se.turbines ∧ q.ti = p.ti ∧ q.ma = p.ma ∧ q.tm = p.tm ∧ q.rau = p.rau ∧
        q.wru = p.wru) ∧
    (row.state = .settling → row.settle.isDue = true → wordsClean p = true →
      ∃ q, exec (.settleExpiry r) s = .next { s with part := finishEvent q } ∧
        q = { p with rsq := { p.rsq with rows := q.rsq.rows } } ∧
        rowAt q r = some { row with state := .closed, settle := .stopped } ∧
        (row.moved = false → ∀ r', r' ≠ r → rowAt q r' = rowAt p r') ∧
        (row.moved = true → ∀ d rd fs, rowAt p d = some rd → (rowFeeders .rsq d p).1 = some fs →
          (d < r → rowAt q d = some rd) ∧
          (r < d → rd.state = .fenced ∨ (∀ f ∈ fs, f.1 ≠ r) → rowAt q d = some rd) ∧
          (r < d → rd.state ≠ .fenced → ∀ f, fs.find? (fun x => x.1 == r) = some f →
            let delay := propagationDelay f.2 (wakeSpeed p.wru) (deliveredField p Field.advection)
            rowAt q d = some { rd with
              holdUntil := laterTime rd.holdUntil (p.now + BitVec.ofNat 32 delay) })))

/-- R106, R92, R49, R48: a step timeout; R110, R114: a lock expiry, with no step outstanding and with some. -/
def Obligations.BurstTimersExpire : Prop :=
  ∀ (s : State) (t : Nat) (b : Burst) (m : Move), burstOf s.part t = some b → slot s.part t = some m →
    m.phase = .burst →
    let p := s.part
    let x := turbineRec p t
    (stepDue b = true →
      ∃ q, exec (.stepTimeout t) s = .next { s with part := finishEvent q } ∧
        turbineRec q t = { x with
          released := x.confirmed
          cond := if x.cond = .normal then .suspect else x.cond
          abandoned := abandonSeqs x.abandoned b.steps } ∧
        burstOf q t = none ∧ q.startsDue = true ∧ q.se.stepTimeouts = p.se.stepTimeouts + 1 ∧
        slot q t = some { m with
          phase := .queued
          resumed := true
          firstFault := some (m.firstFault.getD .stepTimeout) } ∧
        (b.row < p.ms.queues.length → t ∈ queueAt q b.row) ∧
        (∀ u, u ≠ t → turbineRec q u = turbineRec p u ∧ slot q u = slot p u ∧ burstOf q u = burstOf p u) ∧
        (x.cond = .normal → stickySet q.ma .suspect = true) ∧
        q.ms = { p.ms with slots := q.ms.slots, queues := q.ms.queues } ∧
        q.se = { p.se with
          turbines := q.se.turbines, bursts := q.se.bursts, stepTimeouts := p.se.stepTimeouts + 1 } ∧
        q.rsq = p.rsq ∧ q.rau = p.rau ∧ q.wru = p.wru ∧ q.tm = p.tm ∧ q.ti.f = p.ti.f) ∧
    (b.lockTimer.isDue = true →
      ∃ q, exec (.lockExpiry t) s = .next { s with part := finishEvent q } ∧
        (b.steps = [] → burstOf q t = none ∧ q.startsDue = true ∧ slot q t = some { m with
          phase := .queued
          resumed := true
          firstFault := some (m.firstFault.getD .lockLimit) } ∧
          (b.row < p.ms.queues.length → queueAt q b.row = insertByOrder (turbineBefore q) t (queueAt p b.row) ∧
            ∀ u, u ∈ queueAt q b.row ↔ u = t ∨ u ∈ queueAt p b.row) ∧
          ∀ r, r ≠ b.row → queueAt q r = queueAt p r) ∧
        (b.steps ≠ [] → burstOf q t = some { b with
            lockReached := true
            lock := false
            lockTimer := .stopped
            steps := mapOldestTimer Timer.thaw b.steps
            phase := .ending } ∧
          slot q t = some { m with firstFault := some (m.firstFault.getD .lockLimit) } ∧
          q.ms.queues = p.ms.queues ∧ q.startsDue = p.startsDue) ∧
        (∀ u, u ≠ t → slot q u = slot p u ∧ burstOf q u = burstOf p u) ∧
        (m.firstFault = none → stickySet q.ma .moveFault = true) ∧
        (m.firstFault ≠ none → q.ma = p.ma ∧ q.ti = p.ti) ∧
        q.ms = { p.ms with slots := q.ms.slots, queues := q.ms.queues } ∧
        q.se = { p.se with bursts := q.se.bursts } ∧ q.releaseDue = p.releaseDue ∧
        q.rsq = p.rsq ∧ q.rau = p.rau ∧ q.wru = p.wru ∧ q.tm = p.tm ∧
        q.ti.f = p.ti.f)

/-- R121, R123, R132: a realign expiry reloads the timer and adds a round owed, or a hold due in HOLD, or is an
overrun at the limit. R130: a round completes at its round timer's expiry, or at the end of the event that leaves
no entry PENDING; each unanswered entry is a miss of its turbine, and step 4 tests for further rounds within the
event. That the rounds left without a PENDING entry complete at the end of the event, before its other reactions,
is deduced (log entry 8); that of several the one of the lowest row index completes first is the model's choice
(log entry 60). -/
def Obligations.RealignTimersExpire : Prop :=
  ∀ (s : State) (r : Nat) (u : RealignRec), wordsClean s.part = true → realignAt s.part r = some u →
    let p := s.part
    (∀ r', r' ∈ answeredRows p ↔ r' < p.rsq.rows.length ∧ ∃ v rd, realignAt p r' = some v ∧ v.round = some rd ∧
      ∀ e ∈ rd.entries, e.status ≠ .pending) ∧
    (u.timer.isDue = true →
      let next := u.pendingReload.getD (deliveredField p Field.realignInterval)
      let v := { u with timer := .running next, pendingReload := none }
      let full := if p.ma.mode = .hold then u.holdDues = 8 else u.credit = 8
      u.credit ≤ 8 → u.holdDues ≤ 8 →
      ∃ q, exec (.realignExpiry r) s = .next { s with part := finishEvent q } ∧
        (¬ full → p.ma.mode = .hold → realignAt q r = some { v with holdDues := u.holdDues + 1 }) ∧
        (¬ full → p.ma.mode ≠ .hold → realignAt q r = some { v with credit := u.credit + 1 }) ∧
        (¬ full → q.rau.overruns = p.rau.overruns ∧ q.ma = p.ma ∧ q.ti = p.ti) ∧
        (full → realignAt q r = some { v with overrunAlerted := true } ∧
          q.rau.overruns = p.rau.overruns + 1 ∧ q.rsq = p.rsq ∧
          (u.overrunAlerted = false → stickySet q.ma .realignOverrun = true ∧
            q.ma.alertSeq = p.ma.alertSeq + 1) ∧ (u.overrunAlerted = true → q.ma = p.ma)) ∧
        (p.ma.mode ≠ .hold → u.credit = 7 → rowIs q r .opened = false) ∧
        (p.ma.mode = .hold ∨ u.credit ≠ 7 → q.rsq = p.rsq) ∧
        (∀ r', r' ≠ r → realignAt q r' = realignAt p r') ∧ q.tm = p.tm ∧ q.wru = p.wru) ∧
    (∀ rd, u.round = some rd →
      ∃ q, (rd.timer.isDue = true →
          exec (.roundTimerExpiry r) s = .next { s with part := finishEvent (startRounds 24 q) }) ∧
        (∀ l, sequencing p = true → answeredRows p = r :: l → finishEvent p =
          guardWru { carryOutRelease (settleStarts 400 (completeRounds 431 (startRounds 24 q))) with
            startsDue := false }) ∧
        ((∀ r', roundDue q r' = none) → startRounds 24 q = q) ∧
        realignAt q r = some { u with
          credit := if p.ma.mode = .engaged then max (-8) (u.credit - 1) else u.credit
          exitDue := false
          round := none } ∧
        q.rau.roundsCompleted = p.rau.roundsCompleted + 1 ∧
        q.rau.affirmMisses = p.rau.affirmMisses + BitVec.ofNat 32 (pendingTurbines rd).length ∧
        (∀ t, t ∉ pendingTurbines rd → turbineRec q t = turbineRec p t) ∧
        ((pendingTurbines rd).Nodup → ∀ t ∈ pendingTurbines rd, turbineRec q t = { turbineRec p t with
            misses := min 2 ((turbineRec p t).misses + 1)
            cond := if (turbineRec p t).misses = 1 ∧ condOf p t = .normal then .suspect else condOf p t } ∧
          ((turbineRec p t).misses = 1 → condOf p t = .normal → stickySet q.ma .suspect = true)) ∧
        (∀ t, t ∈ pendingTurbines rd ↔ ∃ e ∈ rd.entries, e.turbine = t ∧ e.status = .pending) ∧
        (rowIs p r .affirming = true → rowIs q r .closed = true) ∧
        (rowIs p r .affirming = false → q.rsq = p.rsq) ∧
        (∀ r', r' ≠ r → realignAt q r' = realignAt p r' ∧ rowAt q r' = rowAt p r') ∧
        q.ms = p.ms ∧ q.tm = p.tm ∧ q.wru = p.wru ∧ q.ti.f = p.ti.f)

/-- R143, R145, R85, R58, R134: a pending switch whose rows are all CLOSED or FENCED is taken at the end of the
event, and not before (deduced, log entry 8). R144: the switch limit expiry cuts short what remains and forces it:
no burst and no round is left. Either way the target is ACTIVE, its rows, queues and realign records are new, every
live move stands, by the order of R42, in the queue of the row that lists its turbine, and the opening arbiter
runs. A live move whose turbine no row of the new page lists is gone from its slot: the model's choice (log entry
28). WRU's plan check, for the page that has become VALID again (R20, R36), follows the arbiter: the model's choice
of the order (log entry 21). That no affirm round starts on the new rows within the event, as RSQ hands RAU the end
of the pending switch (R145 step 6), is deduced (log entry 50). -/
def Obligations.SwitchLimitExpiry : Prop :=
  let taken := fun (p q : Part) (sw : SwitchRec) =>
    let rows := rowCountOf (wordAt p (pageWordAddr sw.target 0)).value
    q.rsq.activePage = some sw.target ∧ q.rsq.switch = none ∧ q.rsq.window = p.rsq.window ∧
    q.rsq.rows = List.replicate rows (freshRow p.now) ∧
    q.rau.records = (List.range rows).map (fun r =>
      { timer := .running (deliveredField p Field.realignInterval + 50 * r), pendingReload := none, credit := 0,
        exitDue := false, holdDues := 0, overrunAlerted := false, round := none }) ∧
    q.se.bursts = [] ∧ pageValidity q sw.target = .active ∧
    (∀ n, n ≠ sw.target → pageValidity q n =
      if p.rsq.activePage = some n ∧ pageValidity p n = .active then .valid else pageValidity p n) ∧
    q.ma.latches = [] ∧ q.ma.alertSeq = p.ma.alertSeq + 1 ∧ q.wru = p.wru ∧ sameWords p q ∧ q.ti.f = p.ti.f ∧
    (p.canonical = true → (∀ t m, slot p t = some m → m.phase = .burst → burstOf p t ≠ none) →
      (∀ t, slot p t = none → slot q t = none ∧ ∀ r, t ∉ queueAt q r) ∧
      (∀ t m, slot p t = some m →
        ((rowOf .ms t q).1 = none → slot q t = none ∧ ∀ r, t ∉ queueAt q r) ∧
        ∀ r, (rowOf .ms t q).1 = some r →
          slot q t = some { m with phase := .queued, resumed := m.resumed || decide (m.phase = .burst) } ∧
          ∀ r', t ∈ queueAt q r' ↔ r' = r) ∧
      ((∃ base : Count, ∀ t m, slot p t = some m → (m.arrival - base).toNat < 2147483648) →
        (∀ t u m n, slot p t = some m → slot p u = some n → m.arrival = n.arrival → t = u) →
        ∀ r, (queueAt q r).Pairwise fun t u => turbineBefore q t u = true))
  (∀ (p : Part) (sw : SwitchRec), wordsClean p = true → p.rsq.switch = some sw →
    (rowsAtRest p = false → takeTest p = p) ∧
    (rowsAtRest p = true → p.se.bursts = [] →
      ∃ q, takeTest p = planCheck (runArbiter 24 q) ∧ taken p q sw ∧
        q.rsq.switchesTaken = p.rsq.switchesTaken + 1 ∧ q.rsq.switchesForced = p.rsq.switchesForced ∧
        stickySet q.ma .switchTaken = true ∧ q.se = p.se) ∧
    (sequencing p = true → p.releaseDue = none → p.rau.records.any roundAnswered = false →
      (rowIndices p).any (rowUnsettled p) = false → p.startsDue = false →
      (rowsAtRest p = true → p.se.bursts = []) →
      finishEvent p = { takeTest p with startsDue := false })) ∧
  ∀ (s : State) (sw : SwitchRec), wordsClean s.part = true → s.part.rsq.switch = some sw →
    sw.limit.isDue = true →
    let p := s.part
    ∃ q, exec .switchLimitExpiry s = .next { s with part := finishEvent (planCheck (runArbiter 24 q)) } ∧
      taken p q sw ∧ q.startsDue = (p.startsDue || !p.se.bursts.isEmpty) ∧
      q.rsq.switchesForced = p.rsq.switchesForced + 1 ∧
      q.rsq.switchesTaken = p.rsq.switchesTaken ∧ stickySet q.ma .switchForced = true ∧
      (∀ t b, burstOf p t = some b → turbineRec q t = { turbineRec p t with
        released := (turbineRec p t).confirmed
        abandoned := abandonSeqs (turbineRec p t).abandoned b.steps }) ∧
      ∀ t, burstOf p t = none → turbineRec q t = turbineRec p t

/-- R171, R166, R159, R23: the scrub reads one word and goes on, past a table that is LOADING. A config word that
cannot be read takes its default, which the reader receives; a VALID or INVALID block becomes INVALID (INTEGRITY),
which returns a sequencing part to THROUGH and stops WRU in THROUGH, while a LOADING block stays LOADING. R167 to
R169: what it does at an uncorrectable word of a turbine entry, a page or the sector map. R167, R55, R131: the fence
of a turbine. R168, R81, R82, R56: the fence of a row and of all rows. That a release waits in `releaseDue` for the
end of the event is deduced (log entry 5). -/
def Obligations.Scrub : Prop :=
  (∀ s : State, wordsClean s.part = true → s.part.tm.scrubTimer.isDue = true →
    let p := s.part
    let tb := (placeOf p.tm.scrubPointer).1
    let a := if tableLoading p tb = true then (tableBase tb + tableSize tb) % 1956 else p.tm.scrubPointer
    exec .scrub s = .next { s with part := finishEvent { p with tm := { p.tm with
      scrubPointer := (a + 1) % 1956
      scrubTimer := .running (deliveredField p Field.scrubInterval) } } }) ∧
  (∀ (s : State) (f : Nat), f < 24 → s.part.tm.scrubTimer.isDue = true → s.part.tm.scrubPointer = f →
    checkWord (wordAt s.part f) = .damaged →
    (∀ a, a ≠ f → checkWord (wordAt s.part a) = .clean (wordAt s.part a).value) →
    s.part.tm.config ≠ .loading → s.part.releaseDue = none →
    ∃ t, exec .scrub s = .next t ∧ t.part.ma.mode = .through ∧
      (s.part.ma.mode ≠ .through → t.part.ma.lastRelease = some .integrity ∧
        t.part.ma.releases = s.part.ma.releases + 1 ∧
        t.part.se.bursts = [] ∧ t.part.rsq.rows = [] ∧ t.part.rau.records = []) ∧
      (s.part.ma.mode = .through → t.part.ma.lastRelease = s.part.ma.lastRelease ∧
        t.part.ma.releases = s.part.ma.releases ∧ t.part.releaseDue = none ∧ t.part.ms = s.part.ms ∧
        t.part.rau = s.part.rau ∧ t.part.ti.f = s.part.ti.f) ∧
      t.part.tm.config = .invalid .integrity ∧
      wordAt t.part f = freshWord (BitVec.ofNat 32 (fieldDefault f)) ∧ t.part.wru = Wru.cold ∧
      t.part.tm.uncorrectable = min 255 (s.part.tm.uncorrectable + 1) ∧
      (s.part.tm.captureFrozen = false →
        t.part.tm.capture = some { site := { table := .config, entry := .field f, word := f }, reader := .scrub })) ∧
  (∀ (rd : Reader) (f : Nat) (p : Part), f < 24 → checkWord (wordAt p f) = .damaged →
    (∀ a, a ≠ f → checkWord (wordAt p a) = .clean (wordAt p a).value) →
    ∃ q, readConfig rd f p = (fieldDefault f, q) ∧
      (let met := noteDamaged rd f p
       q = { met with
         tm := { met.tm with words := q.tm.words, config := q.tm.config }
         rsq := { p.rsq with window := q.rsq.window }
         releaseDue := q.releaseDue }) ∧
      wordAt q f = freshWord (BitVec.ofNat 32 (fieldDefault f)) ∧ (∀ a, a ≠ f → wordAt q a = wordAt p a) ∧
      q.tm.config = (if p.tm.config = .loading then .loading else .invalid .integrity) ∧
      q.releaseDue = (if p.tm.config = .loading ∨ p.ma.mode = .through then p.releaseDue
        else some (p.releaseDue.getD .integrity)) ∧
      (f ≠ Field.windowLength → f ≠ Field.windowLimit → q.rsq = p.rsq)) ∧
  (∀ (s : State) (a : Nat), s.part.tm.scrubTimer.isDue = true → s.part.tm.scrubPointer = a → a < 1956 →
    checkWord (wordAt s.part a) = .damaged →
    (∀ b, b ≠ a → checkWord (wordAt s.part b) = .clean (wordAt s.part b).value) →
    tableLoading s.part (placeOf a).1 = false →
    let p := s.part
    let met := noteDamaged .scrub a p
    let scrubbed := fun q : Part => exec .scrub s = .next { s with part := finishEvent { q with tm := { q.tm with
      scrubPointer := (a + 1) % 1956
      scrubTimer := .running (deliveredField p Field.scrubInterval) } } }
    (∀ t, 1 ≤ t → t ≤ 192 → a = turbineWordA t → scrubbed (entryDamaged t met)) ∧
    (∀ t, 1 ≤ t → t ≤ 192 → a = turbineWordB t →
      scrubbed (if turbinePresent p t = true then entryDamaged t met else met)) ∧
    (∀ n w, n < 8 → w < 193 → a = pageWordAddr n w →
      (pageValidity p n = .active → scrubbed (activeWordDamaged w met)) ∧
      (pageValidity p n = .valid → ∃ q, scrubbed (pageChanged n q) ∧
        q = { met with tm := { met.tm with pages := q.tm.pages } } ∧ pageValidity q n = .invalid .integrity ∧
        ∀ k, k ≠ n → pageValidity q k = pageValidity p k) ∧
      ((∃ why, pageValidity p n = .invalid why) → ∃ q, scrubbed q ∧
        q = { met with tm := { met.tm with pages := q.tm.pages } } ∧ pageValidity q n = .invalid .integrity ∧
        ∀ k, k ≠ n → pageValidity q k = pageValidity p k)) ∧
    (∀ w, w < 4 → a = 1952 + w → ∃ q, scrubbed (planCheck q) ∧
      q = { met with tm := { met.tm with words := q.tm.words } } ∧ wordAt q a = freshWord 0xFFFFFFFF#32 ∧
      ∀ b, b ≠ a → wordAt q b = wordAt p b)) ∧
  (∀ (t : Nat) (p : Part), (∀ f, f < 24 → checkWord (wordAt p f) = .clean (wordAt p f).value) →
    let q := entryDamaged t p
    let named := t ∈ [10, 11, 12, 13].map (deliveredField p)
    sameWords p q ∧ fenceMark q t = true ∧ (∀ u, u ≠ t → fenceMark q u = fenceMark p u) ∧
    q.tm.turbine = (if named ∧ p.tm.turbine ≠ .loading then .invalid .integrity else p.tm.turbine) ∧
    q.tm.config = p.tm.config ∧ q.tm.pages = p.tm.pages ∧
    (p.releaseDue = none → q.releaseDue =
      if named ∧ p.tm.turbine ≠ .loading ∧ p.ma.mode ≠ .through then some .integrity else none) ∧
    (fenceMark p t = true → q = { p with tm := q.tm, releaseDue := q.releaseDue }) ∧
    (fenceMark p t = false → q.ma.alertSeq = p.ma.alertSeq + 1 ∧ stickySet q.ma .turbineFenced = true ∧
      q.ma.mode = p.ma.mode ∧ q.wru = p.wru ∧ q.ti.f = p.ti.f ∧
      (p.ma.mode = .through → q = { p with ti := q.ti, tm := q.tm, ma := q.ma, releaseDue := q.releaseDue }) ∧
      (p.ma.mode ≠ .through →
        condOf q t = .fenced ∧ burstOf q t = none ∧ slot q t = none ∧ (∀ r, t ∉ queueAt q r ∨ slot p t = none) ∧
        (∀ b, burstOf p t = some b → turbineRec q t = { turbineRec p t with
          cond := .fenced
          released := (turbineRec p t).confirmed
          abandoned := abandonSeqs (turbineRec p t).abandoned b.steps }) ∧
        (burstOf p t = none → turbineRec q t = { turbineRec p t with cond := .fenced }) ∧
        q.ms.forwarded = p.ms.forwarded + (if slot p t = none then 0 else 1) ∧
        (∀ m, slot p t = some m → ∃ e ∈ q.ms.forward, e.sp = m.sp) ∧
        (∀ u, u ≠ t → turbineRec q u = turbineRec p u ∧ slot q u = slot p u ∧ burstOf q u = burstOf p u) ∧
        (∀ r, realignAt q r = (realignAt p r).map fun u => { u with round := u.round.map fun rd =>
          { rd with entries := rd.entries.filter fun e => e.turbine != t } }) ∧
        ∀ r row, rowAt p r = some row → rowAt q r = some
          (if row.state = .opened ∧ startableCount q r = 0 ∧ burstCount q r = 0 then
            { row with state := .draining, grace := .stopped }
          else row)))) ∧
  (∀ (w : Nat) (p : Part), 1 ≤ w →
    let r := (w - 1) / 8
    let q := activeWordDamaged w p
    (p.rsq.rows.length ≤ r ∨ rowIs p r .fenced = true → q = p) ∧
    (∀ row, rowAt p r = some row → row.state ≠ .fenced →
      rowAt q r = some { row with state := .fenced, grace := .stopped, settle := .stopped } ∧
      (∀ r', r' ≠ r → rowAt q r' = rowAt p r' ∧ realignAt q r' = realignAt p r') ∧
      (∀ u, realignAt p r = some u →
        realignAt q r = some { u with timer := .stopped, pendingReload := none, round := none }) ∧
      burstCount q r = 0 ∧ (∀ t b, burstOf p t = some b → (∀ c ∈ p.se.bursts, c.turbine = t → c = b) →
        burstOf q t = if b.row = r then none else some b) ∧
      (∀ t ∈ queueAt p r, slot q t = none) ∧
      (∀ t b m, burstOf p t = some b → b.row = r → slot p t = some m → m.phase = .burst →
        r < p.ms.queues.length → slot q t = none) ∧
      (∀ t, t ∉ queueAt p r → (∀ b ∈ p.se.bursts, b.turbine = t → b.row ≠ r) →
        slot q t = slot p t ∧ turbineRec q t = turbineRec p t) ∧
      stickySet q.ma .rowFenced = true ∧ q.ma.alertSeq = p.ma.alertSeq + 1 ∧ q.ma.mode = p.ma.mode ∧
      q.tm = p.tm ∧ q.wru = p.wru ∧ q.releaseDue = p.releaseDue ∧ q.ti.f = p.ti.f)) ∧
  ∀ p : Part, p.canonical = true →
    let q := activeWordDamaged 0 p
    let fresh := (rowIndices p).filter fun r => !rowIs p r .fenced
    q.rsq = { p.rsq with rows := p.rsq.rows.map fun row =>
      if row.state = .fenced then row else { row with state := .fenced, grace := .stopped, settle := .stopped } } ∧
    (∀ t, slot q t = none) ∧ (∀ r ∈ fresh, burstCount q r = 0) ∧
    (∀ r ∈ fresh, ∀ u, realignAt p r = some u →
      realignAt q r = some { u with timer := .stopped, pendingReload := none, round := none }) ∧
    q.ms.forwarded = p.ms.forwarded + BitVec.ofNat 32 p.ms.slots.length ∧
    q.ma.alertSeq = p.ma.alertSeq + BitVec.ofNat 8 fresh.length ∧
    (fresh ≠ [] → stickySet q.ma .rowFenced = true) ∧
    q.tm = p.tm ∧ q.wru = p.wru ∧ q.releaseDue = p.releaseDue ∧ q.ti.f = p.ti.f
end

