-- ==== Sys2Proof/Laws/State.lean ====
section
/-! SUPPORT. The fields of the part after an update of one block: one lemma per field per update. -/

namespace Sys2Proof.Machine

/-! ### Ti -/

@[simp] theorem Part.onTi_now (p : Part) (g : Ti → Ti) : (p.onTi g).now = p.now := rfl
@[simp] theorem Part.onTi_ti (p : Part) (g : Ti → Ti) : (p.onTi g).ti = g p.ti := rfl
@[simp] theorem Part.onTi_wru (p : Part) (g : Ti → Ti) : (p.onTi g).wru = p.wru := rfl
@[simp] theorem Part.onTi_ms (p : Part) (g : Ti → Ti) : (p.onTi g).ms = p.ms := rfl
@[simp] theorem Part.onTi_rsq (p : Part) (g : Ti → Ti) : (p.onTi g).rsq = p.rsq := rfl
@[simp] theorem Part.onTi_se (p : Part) (g : Ti → Ti) : (p.onTi g).se = p.se := rfl
@[simp] theorem Part.onTi_rau (p : Part) (g : Ti → Ti) : (p.onTi g).rau = p.rau := rfl
@[simp] theorem Part.onTi_tm (p : Part) (g : Ti → Ti) : (p.onTi g).tm = p.tm := rfl
@[simp] theorem Part.onTi_ma (p : Part) (g : Ti → Ti) : (p.onTi g).ma = p.ma := rfl
@[simp] theorem Part.onTi_releaseDue (p : Part) (g : Ti → Ti) : (p.onTi g).releaseDue = p.releaseDue := rfl
@[simp] theorem Part.onTi_startsDue (p : Part) (g : Ti → Ti) : (p.onTi g).startsDue = p.startsDue := rfl

/-! ### Wru -/

@[simp] theorem Part.onWru_now (p : Part) (g : Wru → Wru) : (p.onWru g).now = p.now := rfl
@[simp] theorem Part.onWru_ti (p : Part) (g : Wru → Wru) : (p.onWru g).ti = p.ti := rfl
@[simp] theorem Part.onWru_wru (p : Part) (g : Wru → Wru) : (p.onWru g).wru = g p.wru := rfl
@[simp] theorem Part.onWru_ms (p : Part) (g : Wru → Wru) : (p.onWru g).ms = p.ms := rfl
@[simp] theorem Part.onWru_rsq (p : Part) (g : Wru → Wru) : (p.onWru g).rsq = p.rsq := rfl
@[simp] theorem Part.onWru_se (p : Part) (g : Wru → Wru) : (p.onWru g).se = p.se := rfl
@[simp] theorem Part.onWru_rau (p : Part) (g : Wru → Wru) : (p.onWru g).rau = p.rau := rfl
@[simp] theorem Part.onWru_tm (p : Part) (g : Wru → Wru) : (p.onWru g).tm = p.tm := rfl
@[simp] theorem Part.onWru_ma (p : Part) (g : Wru → Wru) : (p.onWru g).ma = p.ma := rfl
@[simp] theorem Part.onWru_releaseDue (p : Part) (g : Wru → Wru) : (p.onWru g).releaseDue = p.releaseDue := rfl
@[simp] theorem Part.onWru_startsDue (p : Part) (g : Wru → Wru) : (p.onWru g).startsDue = p.startsDue := rfl

/-! ### Ms -/

@[simp] theorem Part.onMs_now (p : Part) (g : Ms → Ms) : (p.onMs g).now = p.now := rfl
@[simp] theorem Part.onMs_ti (p : Part) (g : Ms → Ms) : (p.onMs g).ti = p.ti := rfl
@[simp] theorem Part.onMs_wru (p : Part) (g : Ms → Ms) : (p.onMs g).wru = p.wru := rfl
@[simp] theorem Part.onMs_ms (p : Part) (g : Ms → Ms) : (p.onMs g).ms = g p.ms := rfl
@[simp] theorem Part.onMs_rsq (p : Part) (g : Ms → Ms) : (p.onMs g).rsq = p.rsq := rfl
@[simp] theorem Part.onMs_se (p : Part) (g : Ms → Ms) : (p.onMs g).se = p.se := rfl
@[simp] theorem Part.onMs_rau (p : Part) (g : Ms → Ms) : (p.onMs g).rau = p.rau := rfl
@[simp] theorem Part.onMs_tm (p : Part) (g : Ms → Ms) : (p.onMs g).tm = p.tm := rfl
@[simp] theorem Part.onMs_ma (p : Part) (g : Ms → Ms) : (p.onMs g).ma = p.ma := rfl
@[simp] theorem Part.onMs_releaseDue (p : Part) (g : Ms → Ms) : (p.onMs g).releaseDue = p.releaseDue := rfl
@[simp] theorem Part.onMs_startsDue (p : Part) (g : Ms → Ms) : (p.onMs g).startsDue = p.startsDue := rfl

/-! ### Rsq -/

@[simp] theorem Part.onRsq_now (p : Part) (g : Rsq → Rsq) : (p.onRsq g).now = p.now := rfl
@[simp] theorem Part.onRsq_ti (p : Part) (g : Rsq → Rsq) : (p.onRsq g).ti = p.ti := rfl
@[simp] theorem Part.onRsq_wru (p : Part) (g : Rsq → Rsq) : (p.onRsq g).wru = p.wru := rfl
@[simp] theorem Part.onRsq_ms (p : Part) (g : Rsq → Rsq) : (p.onRsq g).ms = p.ms := rfl
@[simp] theorem Part.onRsq_rsq (p : Part) (g : Rsq → Rsq) : (p.onRsq g).rsq = g p.rsq := rfl
@[simp] theorem Part.onRsq_se (p : Part) (g : Rsq → Rsq) : (p.onRsq g).se = p.se := rfl
@[simp] theorem Part.onRsq_rau (p : Part) (g : Rsq → Rsq) : (p.onRsq g).rau = p.rau := rfl
@[simp] theorem Part.onRsq_tm (p : Part) (g : Rsq → Rsq) : (p.onRsq g).tm = p.tm := rfl
@[simp] theorem Part.onRsq_ma (p : Part) (g : Rsq → Rsq) : (p.onRsq g).ma = p.ma := rfl
@[simp] theorem Part.onRsq_releaseDue (p : Part) (g : Rsq → Rsq) : (p.onRsq g).releaseDue = p.releaseDue := rfl
@[simp] theorem Part.onRsq_startsDue (p : Part) (g : Rsq → Rsq) : (p.onRsq g).startsDue = p.startsDue := rfl

/-! ### Se -/

@[simp] theorem Part.onSe_now (p : Part) (g : Se → Se) : (p.onSe g).now = p.now := rfl
@[simp] theorem Part.onSe_ti (p : Part) (g : Se → Se) : (p.onSe g).ti = p.ti := rfl
@[simp] theorem Part.onSe_wru (p : Part) (g : Se → Se) : (p.onSe g).wru = p.wru := rfl
@[simp] theorem Part.onSe_ms (p : Part) (g : Se → Se) : (p.onSe g).ms = p.ms := rfl
@[simp] theorem Part.onSe_rsq (p : Part) (g : Se → Se) : (p.onSe g).rsq = p.rsq := rfl
@[simp] theorem Part.onSe_se (p : Part) (g : Se → Se) : (p.onSe g).se = g p.se := rfl
@[simp] theorem Part.onSe_rau (p : Part) (g : Se → Se) : (p.onSe g).rau = p.rau := rfl
@[simp] theorem Part.onSe_tm (p : Part) (g : Se → Se) : (p.onSe g).tm = p.tm := rfl
@[simp] theorem Part.onSe_ma (p : Part) (g : Se → Se) : (p.onSe g).ma = p.ma := rfl
@[simp] theorem Part.onSe_releaseDue (p : Part) (g : Se → Se) : (p.onSe g).releaseDue = p.releaseDue := rfl
@[simp] theorem Part.onSe_startsDue (p : Part) (g : Se → Se) : (p.onSe g).startsDue = p.startsDue := rfl

/-! ### Rau -/

@[simp] theorem Part.onRau_now (p : Part) (g : Rau → Rau) : (p.onRau g).now = p.now := rfl
@[simp] theorem Part.onRau_ti (p : Part) (g : Rau → Rau) : (p.onRau g).ti = p.ti := rfl
@[simp] theorem Part.onRau_wru (p : Part) (g : Rau → Rau) : (p.onRau g).wru = p.wru := rfl
@[simp] theorem Part.onRau_ms (p : Part) (g : Rau → Rau) : (p.onRau g).ms = p.ms := rfl
@[simp] theorem Part.onRau_rsq (p : Part) (g : Rau → Rau) : (p.onRau g).rsq = p.rsq := rfl
@[simp] theorem Part.onRau_se (p : Part) (g : Rau → Rau) : (p.onRau g).se = p.se := rfl
@[simp] theorem Part.onRau_rau (p : Part) (g : Rau → Rau) : (p.onRau g).rau = g p.rau := rfl
@[simp] theorem Part.onRau_tm (p : Part) (g : Rau → Rau) : (p.onRau g).tm = p.tm := rfl
@[simp] theorem Part.onRau_ma (p : Part) (g : Rau → Rau) : (p.onRau g).ma = p.ma := rfl
@[simp] theorem Part.onRau_releaseDue (p : Part) (g : Rau → Rau) : (p.onRau g).releaseDue = p.releaseDue := rfl
@[simp] theorem Part.onRau_startsDue (p : Part) (g : Rau → Rau) : (p.onRau g).startsDue = p.startsDue := rfl

/-! ### Tm -/

@[simp] theorem Part.onTm_now (p : Part) (g : Tm → Tm) : (p.onTm g).now = p.now := rfl
@[simp] theorem Part.onTm_ti (p : Part) (g : Tm → Tm) : (p.onTm g).ti = p.ti := rfl
@[simp] theorem Part.onTm_wru (p : Part) (g : Tm → Tm) : (p.onTm g).wru = p.wru := rfl
@[simp] theorem Part.onTm_ms (p : Part) (g : Tm → Tm) : (p.onTm g).ms = p.ms := rfl
@[simp] theorem Part.onTm_rsq (p : Part) (g : Tm → Tm) : (p.onTm g).rsq = p.rsq := rfl
@[simp] theorem Part.onTm_se (p : Part) (g : Tm → Tm) : (p.onTm g).se = p.se := rfl
@[simp] theorem Part.onTm_rau (p : Part) (g : Tm → Tm) : (p.onTm g).rau = p.rau := rfl
@[simp] theorem Part.onTm_tm (p : Part) (g : Tm → Tm) : (p.onTm g).tm = g p.tm := rfl
@[simp] theorem Part.onTm_ma (p : Part) (g : Tm → Tm) : (p.onTm g).ma = p.ma := rfl
@[simp] theorem Part.onTm_releaseDue (p : Part) (g : Tm → Tm) : (p.onTm g).releaseDue = p.releaseDue := rfl
@[simp] theorem Part.onTm_startsDue (p : Part) (g : Tm → Tm) : (p.onTm g).startsDue = p.startsDue := rfl

/-! ### Ma -/

@[simp] theorem Part.onMa_now (p : Part) (g : Ma → Ma) : (p.onMa g).now = p.now := rfl
@[simp] theorem Part.onMa_ti (p : Part) (g : Ma → Ma) : (p.onMa g).ti = p.ti := rfl
@[simp] theorem Part.onMa_wru (p : Part) (g : Ma → Ma) : (p.onMa g).wru = p.wru := rfl
@[simp] theorem Part.onMa_ms (p : Part) (g : Ma → Ma) : (p.onMa g).ms = p.ms := rfl
@[simp] theorem Part.onMa_rsq (p : Part) (g : Ma → Ma) : (p.onMa g).rsq = p.rsq := rfl
@[simp] theorem Part.onMa_se (p : Part) (g : Ma → Ma) : (p.onMa g).se = p.se := rfl
@[simp] theorem Part.onMa_rau (p : Part) (g : Ma → Ma) : (p.onMa g).rau = p.rau := rfl
@[simp] theorem Part.onMa_tm (p : Part) (g : Ma → Ma) : (p.onMa g).tm = p.tm := rfl
@[simp] theorem Part.onMa_ma (p : Part) (g : Ma → Ma) : (p.onMa g).ma = g p.ma := rfl
@[simp] theorem Part.onMa_releaseDue (p : Part) (g : Ma → Ma) : (p.onMa g).releaseDue = p.releaseDue := rfl
@[simp] theorem Part.onMa_startsDue (p : Part) (g : Ma → Ma) : (p.onMa g).startsDue = p.startsDue := rfl

/-! ### A command's outcome -/

@[simp] theorem State.does_eq (s : State) (g : Part → Part) :
    s.does g = .next { s with part := g s.part } := rfl

end Sys2Proof.Machine
end

