-- ==== Sys2Proof/Laws/Trunk.lean ====
section
/-! SUPPORT. Ports, frames handed over, alerts and answers: what each shared operation leaves alone. -/

namespace Sys2Proof.Machine

/-! ### Ports -/

@[simp] theorem chooseSource_through (ps : PortState) : (chooseSource ps).through = ps.through := by
  unfold chooseSource; repeat' split
  all_goals rfl

@[simp] theorem chooseSource_insertion (ps : PortState) : (chooseSource ps).insertion = ps.insertion := by
  unfold chooseSource; repeat' split
  all_goals rfl

@[simp] theorem portOf_onPort_same (port : Port) (g : PortState → PortState) (p : Part) :
    portOf (onPort port g p) port = g (portOf p port) := by cases port <;> rfl

@[simp] theorem portOf_onPort_other (port : Port) (g : PortState → PortState) (p : Part) :
    portOf (onPort port g p) (otherPort port) = portOf p (otherPort port) := by cases port <;> rfl

@[simp] theorem onPort_now (port : Port) (g : PortState → PortState) (p : Part) : (onPort port g p).now = p.now := by
  cases port <;> rfl
@[simp] theorem onPort_wru (port : Port) (g : PortState → PortState) (p : Part) : (onPort port g p).wru = p.wru := by
  cases port <;> rfl
@[simp] theorem onPort_ms (port : Port) (g : PortState → PortState) (p : Part) : (onPort port g p).ms = p.ms := by
  cases port <;> rfl
@[simp] theorem onPort_rsq (port : Port) (g : PortState → PortState) (p : Part) : (onPort port g p).rsq = p.rsq := by
  cases port <;> rfl
@[simp] theorem onPort_se (port : Port) (g : PortState → PortState) (p : Part) : (onPort port g p).se = p.se := by
  cases port <;> rfl
@[simp] theorem onPort_rau (port : Port) (g : PortState → PortState) (p : Part) : (onPort port g p).rau = p.rau := by
  cases port <;> rfl
@[simp] theorem onPort_tm (port : Port) (g : PortState → PortState) (p : Part) : (onPort port g p).tm = p.tm := by
  cases port <;> rfl
@[simp] theorem onPort_ma (port : Port) (g : PortState → PortState) (p : Part) : (onPort port g p).ma = p.ma := by
  cases port <;> rfl
@[simp] theorem onPort_releaseDue (port : Port) (g : PortState → PortState) (p : Part) :
    (onPort port g p).releaseDue = p.releaseDue := by cases port <;> rfl
@[simp] theorem onPort_startsDue (port : Port) (g : PortState → PortState) (p : Part) :
    (onPort port g p).startsDue = p.startsDue := by cases port <;> rfl

/-- A frame handed over joins its queue at the end. -/
@[simp] theorem insertFrame_insertion (port : Port) (q : QFrame) (p : Part) :
    (portOf (insertFrame port q p) port).insertion = (portOf p port).insertion ++ [q] := by
  simp [insertFrame]

@[simp] theorem insertFrame_now (port : Port) (q : QFrame) (p : Part) : (insertFrame port q p).now = p.now := by
  simp [insertFrame]
@[simp] theorem insertFrame_wru (port : Port) (q : QFrame) (p : Part) : (insertFrame port q p).wru = p.wru := by
  simp [insertFrame]
@[simp] theorem insertFrame_ms (port : Port) (q : QFrame) (p : Part) : (insertFrame port q p).ms = p.ms := by
  simp [insertFrame]
@[simp] theorem insertFrame_rsq (port : Port) (q : QFrame) (p : Part) : (insertFrame port q p).rsq = p.rsq := by
  simp [insertFrame]
@[simp] theorem insertFrame_se (port : Port) (q : QFrame) (p : Part) : (insertFrame port q p).se = p.se := by
  simp [insertFrame]
@[simp] theorem insertFrame_rau (port : Port) (q : QFrame) (p : Part) : (insertFrame port q p).rau = p.rau := by
  simp [insertFrame]
@[simp] theorem insertFrame_tm (port : Port) (q : QFrame) (p : Part) : (insertFrame port q p).tm = p.tm := by
  simp [insertFrame]
@[simp] theorem insertFrame_ma (port : Port) (q : QFrame) (p : Part) : (insertFrame port q p).ma = p.ma := by
  simp [insertFrame]
@[simp] theorem insertFrame_releaseDue (port : Port) (q : QFrame) (p : Part) :
    (insertFrame port q p).releaseDue = p.releaseDue := by simp [insertFrame]
@[simp] theorem insertFrame_startsDue (port : Port) (q : QFrame) (p : Part) :
    (insertFrame port q p).startsDue = p.startsDue := by simp [insertFrame]

/-! ### Alerts touch TI's C port and MA alone (R200) -/

@[simp] theorem stampAlert_ti (k : AlertKind) (p : Part) : (stampAlert k p).ti = p.ti := rfl

theorem raiseAlert_cases (k : AlertKind) (subj : Subject) (p : Part) :
    (0 < freePlaces p .c ∧ raiseAlert k subj p = insertFrame .c
      { frame := alertFrame (ownAddress p) k subj (p.ma.alertSeq + 1), origin := .alert } (stampAlert k p)) ∨
    (freePlaces p .c = 0 ∧ raiseAlert k subj p =
      (stampAlert k p).onMa fun m => { m with droppedAlerts := m.droppedAlerts + 1 }) := by
  by_cases h : 0 < freePlaces p .c
  · left
    have h' : 0 < freePlaces (stampAlert k p) .c := h
    simp only [raiseAlert, h', if_true]
    exact ⟨h, rfl⟩
  · right
    have h' : ¬ 0 < freePlaces (stampAlert k p) .c := h
    simp only [raiseAlert, h', if_false]
    exact ⟨by omega, trivial⟩

@[simp] theorem raiseAlert_now (k : AlertKind) (subj : Subject) (p : Part) : (raiseAlert k subj p).now = p.now := by
  rcases raiseAlert_cases k subj p with ⟨-, h⟩ | ⟨-, h⟩ <;> simp [h, stampAlert]
@[simp] theorem raiseAlert_wru (k : AlertKind) (subj : Subject) (p : Part) : (raiseAlert k subj p).wru = p.wru := by
  rcases raiseAlert_cases k subj p with ⟨-, h⟩ | ⟨-, h⟩ <;> simp [h, stampAlert]
@[simp] theorem raiseAlert_ms (k : AlertKind) (subj : Subject) (p : Part) : (raiseAlert k subj p).ms = p.ms := by
  rcases raiseAlert_cases k subj p with ⟨-, h⟩ | ⟨-, h⟩ <;> simp [h, stampAlert]
@[simp] theorem raiseAlert_rsq (k : AlertKind) (subj : Subject) (p : Part) : (raiseAlert k subj p).rsq = p.rsq := by
  rcases raiseAlert_cases k subj p with ⟨-, h⟩ | ⟨-, h⟩ <;> simp [h, stampAlert]
@[simp] theorem raiseAlert_se (k : AlertKind) (subj : Subject) (p : Part) : (raiseAlert k subj p).se = p.se := by
  rcases raiseAlert_cases k subj p with ⟨-, h⟩ | ⟨-, h⟩ <;> simp [h, stampAlert]
@[simp] theorem raiseAlert_rau (k : AlertKind) (subj : Subject) (p : Part) : (raiseAlert k subj p).rau = p.rau := by
  rcases raiseAlert_cases k subj p with ⟨-, h⟩ | ⟨-, h⟩ <;> simp [h, stampAlert]
@[simp] theorem raiseAlert_tm (k : AlertKind) (subj : Subject) (p : Part) : (raiseAlert k subj p).tm = p.tm := by
  rcases raiseAlert_cases k subj p with ⟨-, h⟩ | ⟨-, h⟩ <;> simp [h, stampAlert]
@[simp] theorem raiseAlert_releaseDue (k : AlertKind) (subj : Subject) (p : Part) :
    (raiseAlert k subj p).releaseDue = p.releaseDue := by
  rcases raiseAlert_cases k subj p with ⟨-, h⟩ | ⟨-, h⟩ <;> simp [h, stampAlert]
@[simp] theorem raiseAlert_startsDue (k : AlertKind) (subj : Subject) (p : Part) :
    (raiseAlert k subj p).startsDue = p.startsDue := by
  rcases raiseAlert_cases k subj p with ⟨-, h⟩ | ⟨-, h⟩ <;> simp [h, stampAlert]
@[simp] theorem raiseAlert_f (k : AlertKind) (subj : Subject) (p : Part) : (raiseAlert k subj p).ti.f = p.ti.f := by
  rcases raiseAlert_cases k subj p with ⟨-, h⟩ | ⟨-, h⟩ <;> rw [h] <;> rfl
@[simp] theorem raiseAlert_mode (k : AlertKind) (subj : Subject) (p : Part) :
    (raiseAlert k subj p).ma.mode = p.ma.mode := by
  rcases raiseAlert_cases k subj p with ⟨-, h⟩ | ⟨-, h⟩ <;> simp [h, stampAlert]

/-! ### Answers -/

@[simp] theorem pushAnswer_answers (a : Answer) (p : Part) : (pushAnswer a p).ma.answers = p.ma.answers ++ [a] := rfl

end Sys2Proof.Machine
end

