-- ==== Sys2Proof/Laws/Events.lean ====
section
/-! SUPPORT. The end of an event: what it does in THROUGH and when nothing is left to settle; the arrival at the
C port when it is inert; a frame cut off by a reset; the active sector lost. -/

namespace Sys2Proof.Machine

theorem foldl_id {α β : Type} (g : β → α → β) (l : List α) (b : β) (h : ∀ a ∈ l, g b a = b) : l.foldl g b = b := by
  induction l with
  | nil => rfl
  | cons a l ih => simp [h a (by simp), ih fun x hx => h x (List.mem_cons_of_mem _ hx)]

/-- R23: while WRU runs nothing is done to it. -/
theorem guardWru_sequencing {p : Part} (h : sequencing p = true) : guardWru p = p := by
  simp [guardWru, wruRuns, h]

/-- In THROUGH an event ends with WRU's stop, if it is due. -/
theorem finishEvent_through {p : Part} (h : p.ma.mode = .through) : finishEvent p = guardWru p := by
  simp [finishEvent, sequencing, h]

/-- R130: without an answered round none completes. -/
theorem answeredRows_nil {p : Part} (h : p.rau.records.any roundAnswered = false) : answeredRows p = [] := by
  simp only [answeredRows, List.filter_eq_nil_iff, realignAt]
  intro r _
  cases hu : p.rau.records[r]? with
  | none => simp
  | some u => simpa using List.any_eq_false.mp h u (List.mem_of_getElem? hu)

theorem completeRounds_id {p : Part} (n : Nat) (h : p.rau.records.any roundAnswered = false) :
    completeRounds n p = p := by
  cases n with
  | zero => rfl
  | succ n => simp [completeRounds, answeredRows_nil h]

/-- R130: of the answered rounds the one on the lowest row completes first. -/
theorem completeRounds_cons {p : Part} {r : Nat} {l : List Nat} (n : Nat) (h : answeredRows p = r :: l) :
    completeRounds (n + 1) p = completeRounds n (completeRound r p) := by
  simp [completeRounds, h]

/-- R125: where no round is due none starts. -/
theorem startFirstRound_id {p : Part} (l : List Nat) (h : ∀ r ∈ l, roundDue p r = none) : startFirstRound l p = p := by
  induction l with
  | nil => rfl
  | cons r l ih => simp [startFirstRound, h r (by simp), ih fun x hx => h x (List.mem_cons_of_mem _ hx)]

/-- R130 step 4: the test for further rounds changes nothing where no round is due. -/
theorem startRounds_id {p : Part} (n : Nat) (h : ∀ r ∈ rowIndices p, roundDue p r = none) : startRounds n p = p := by
  induction n with
  | zero => rfl
  | succ n ih => simp [startRounds, startFirstRound_id _ h, ih]

theorem settleRows_id {p : Part} (h : (rowIndices p).any (rowUnsettled p) = false) : settleRows p = p := by
  refine foldl_id _ _ _ fun r hr => ?_
  have hu : rowUnsettled p r = false := by
    have := List.any_eq_false.mp h r hr
    simpa using this
  simp only [rowUnsettled, Bool.and_eq_false_iff, Bool.or_eq_false_iff, decide_eq_false_iff_not] at hu
  have h1 : ¬(rowIs p r .opened = true ∧ startableCount p r = 0 ∧ burstCount p r = 0) := by
    rintro ⟨a, b, c⟩
    rcases hu with hu | ⟨-, hu | hu⟩
    · exact hu c
    · simp [a] at hu
    · exact hu b
  have h2 : ¬(rowIs p r .draining = true ∧ burstCount p r = 0) := by
    rintro ⟨a, c⟩
    rcases hu with hu | ⟨hu, -⟩
    · exact hu c
    · simp [a] at hu
  simp [settleRow, drainIfEmpty, h1, h2]

theorem noStartsDue_id {p : Part} (h : p.startsDue = false) : noStartsDue p = p := by
  cases p
  simp_all [noStartsDue]

/-- R143: with no switch pending, or a row not at rest, no switch is taken. -/
theorem takeTest_id {p : Part} (h : p.rsq.switch = none ∨ rowsAtRest p = false) : takeTest p = p := by
  unfold takeTest
  split
  · next sw hsw =>
    rcases h with h | h
    · simp [hsw] at h
    · simp [h]
  · rfl

/-- R143, R99: where the rows have settled, no switch can be taken and no record has freed, nothing follows. -/
theorem settleStarts_id {p : Part} (n : Nat) (h : p.startsDue = false) (hs : settleRows p = p)
    (ht : takeTest p = p) : settleStarts n p = p := by
  cases n <;> simp [settleStarts, hs, ht, h]

theorem runStartsDue_id {p : Part} (h : p.startsDue = false) : runStartsDue p = p := by
  simp [runStartsDue, h]

/-- R99: where no burst waits with a place free, none is served. -/
theorem serveBursts_id {p : Part} (n : Nat) (h : waitingBursts p = []) : serveBursts n p = p := by
  cases n <;> simp [serveBursts, h, offerPlace]

/-- R99: the first burst offered a place that releases a step takes it. -/
theorem offerPlace_taken {p : Part} {t : Nat} (l : List Nat)
    (h : (releaseStep t p).se.stepsReleased ≠ p.se.stepsReleased) : offerPlace (t :: l) p = releaseStep t p := by
  simp [offerPlace, h]

/-- R99: of the waiting bursts the one of lowest turbine number takes the place when it releases a step, and the test is
made again. -/
theorem serveBursts_cons {p : Part} {t : Nat} {l : List Nat} (n : Nat) (h : waitingBursts p = t :: l)
    (hr : (releaseStep t p).se.stepsReleased ≠ p.se.stepsReleased) :
    serveBursts (n + 1) p = serveBursts n (releaseStep t p) := by
  simp [serveBursts, h, offerPlace_taken l hr, hr]

/-- R101: a burst that may not release a step has none released. -/
theorem releaseSteps_id {t : Nat} {p : Part} (h : canRelease p t = false) : releaseSteps t p = p := by
  simp [releaseSteps, h]

/-- R20: a page that has not entered or left VALID is not handed over. -/
theorem handPageChange_id {n : Nat} {was : Validity} {p : Part}
    (h : was = .valid ↔ pageValidity p n = .valid) : handPageChange n was p = p := by
  simp [handPageChange, h]

/-- R174: with no frame in progress a reset cuts none off. -/
@[simp] theorem cutFrames_none (p : Part) : cutFrames false false p = p := by simp [cutFrames, cutFrame]

/-! A frame cut off by a reset is counted at its port and changes nothing else (R174). -/

@[simp] theorem cutFrames_now (cutC cutF : Bool) (p : Part) : (cutFrames cutC cutF p).now = p.now := by
  cases cutC <;> cases cutF <;> rfl

@[simp] theorem cutFrames_wru (cutC cutF : Bool) (p : Part) : (cutFrames cutC cutF p).wru = p.wru := by
  cases cutC <;> cases cutF <;> rfl

@[simp] theorem cutFrames_ms (cutC cutF : Bool) (p : Part) : (cutFrames cutC cutF p).ms = p.ms := by
  cases cutC <;> cases cutF <;> rfl

@[simp] theorem cutFrames_rsq (cutC cutF : Bool) (p : Part) : (cutFrames cutC cutF p).rsq = p.rsq := by
  cases cutC <;> cases cutF <;> rfl

@[simp] theorem cutFrames_se (cutC cutF : Bool) (p : Part) : (cutFrames cutC cutF p).se = p.se := by
  cases cutC <;> cases cutF <;> rfl

@[simp] theorem cutFrames_rau (cutC cutF : Bool) (p : Part) : (cutFrames cutC cutF p).rau = p.rau := by
  cases cutC <;> cases cutF <;> rfl

@[simp] theorem cutFrames_tm (cutC cutF : Bool) (p : Part) : (cutFrames cutC cutF p).tm = p.tm := by
  cases cutC <;> cases cutF <;> rfl

@[simp] theorem cutFrames_ma (cutC cutF : Bool) (p : Part) : (cutFrames cutC cutF p).ma = p.ma := by
  cases cutC <;> cases cutF <;> rfl

@[simp] theorem cutFrames_releaseDue (cutC cutF : Bool) (p : Part) : (cutFrames cutC cutF p).releaseDue = p.releaseDue := by
  cases cutC <;> cases cutF <;> rfl

@[simp] theorem cutFrames_startsDue (cutC cutF : Bool) (p : Part) : (cutFrames cutC cutF p).startsDue = p.startsDue := by
  cases cutC <;> cases cutF <;> rfl

/-- The counts of both ports after the cut. -/
theorem cutFrames_counts (cutC cutF : Bool) (p : Part) :
    (cutFrames cutC cutF p).ti.c.received = p.ti.c.received + (if cutC then 1 else 0) ∧
    (cutFrames cutC cutF p).ti.c.droppedBad = p.ti.c.droppedBad + (if cutC then 1 else 0) ∧
    (cutFrames cutC cutF p).ti.f.received = p.ti.f.received + (if cutF then 1 else 0) ∧
    (cutFrames cutC cutF p).ti.f.droppedBad = p.ti.f.droppedBad + (if cutF then 1 else 0) := by
  cases cutC <;> cases cutF <;> simp [cutFrames, cutFrame, onPort]

/-- R32: afterwards no sector is active. -/
@[simp] theorem loseSector_activeSector (p : Part) : (loseSector p).wru.activeSector = none := by
  unfold loseSector
  split
  · assumption
  · simp [Part.onWru]

/-- An event that leaves nothing to settle ends as it is. -/
theorem finishEvent_calm {p : Part} (h : calm p = true) : finishEvent p = p := by
  simp only [calm, Bool.and_eq_true, Bool.not_eq_true', Bool.or_eq_true, decide_eq_true_eq] at h
  obtain ⟨⟨⟨⟨⟨hs, hd⟩, hb⟩, hr⟩, hu⟩, hw⟩ := h
  have h1 : settleEvent p = p := by
    unfold settleEvent
    rw [completeRounds_id _ hr, settleStarts_id _ hb (settleRows_id hu) (takeTest_id hw)]
    simp [carryOutRelease, hd, noStartsDue_id hb]
  simp [finishEvent, hs, h1, guardWru_sequencing hs]

theorem stopWru_cold {p : Part} (h : p.wru = .cold) : stopWru p = p := by
  obtain ⟨_, _, w, _, _, _, _, _, _, _, _⟩ := p
  obtain rfl : w = .cold := h
  rfl

/-- A quiet part ends its event as it is. -/
theorem finishEvent_quiet {p : Part} (h : quiet p = true) : finishEvent p = p := by
  unfold quiet at h
  split at h
  · exact finishEvent_calm h
  · next hs =>
    simp only [finishEvent, hs, if_false, guardWru, Bool.false_eq_true]
    by_cases hw : wruRuns p = true
    · simp [hw]
    · simp only [hw, Bool.false_or, decide_eq_true_eq, if_false, Bool.false_eq_true] at h ⊢
      exact stopWru_cold h

/-- R152, R156: an inert arrival changes nothing. -/
theorem arrival_inert {p : Part} (h : arrivalInert p = true) : arrival p = p := by
  unfold arrival
  unfold arrivalInert at h
  split
  · rfl
  · next hm => simp [hm] at h
  · next hm =>
    simp only [hm, Bool.or_eq_true, decide_eq_true_eq] at h
    split
    · next hc =>
      rcases h with h | h
      · exact absurd hc.1 h
      · simp [hc.2] at h
    · rfl

end Sys2Proof.Machine
end

