-- ==== Sys2Proof/Laws/Tables.lean ====
section
/-! SUPPORT. The sparse tables: a read after a write, and the canonical form kept by every operation. -/

namespace Sys2Proof.Machine

variable {α : Type}

/-! ### Reads -/

theorem Store.get_drop_same (d : Nat → α) (m : Store α) (k : Nat) : Store.get d (Store.drop m k) k = d k := by
  induction m with
  | nil => rfl
  | cons e m ih =>
    obtain ⟨j, v⟩ := e
    by_cases h : k = j
    · simpa [Store.drop, h] using (h ▸ ih)
    · simpa [Store.drop, Store.get, h] using ih

theorem Store.get_drop_other (d : Nat → α) (m : Store α) {k j : Nat} (h : j ≠ k) :
    Store.get d (Store.drop m k) j = Store.get d m j := by
  induction m with
  | nil => rfl
  | cons e m ih =>
    obtain ⟨i, v⟩ := e
    by_cases hk : k = i
    · simp [Store.drop, Store.get, hk, ← ih, show ¬ j = i from hk ▸ h]
    · simp [Store.drop, Store.get, hk, ih]

theorem Store.get_insert_other (d : Nat → α) (v : α) (m : Store α) {k j : Nat} (h : j ≠ k) :
    Store.get d (Store.insert k v m) j = Store.get d m j := by
  induction m with
  | nil => simp [Store.insert, Store.get, h]
  | cons e m ih =>
    obtain ⟨i, w⟩ := e
    by_cases hk : k < i
    · simp [Store.insert, Store.get, hk, h]
    · simp [Store.insert, Store.get, hk, ih]

/-- A table without the key finds it in the pair inserted. -/
theorem Store.get_insert_same (d : Nat → α) (v : α) (m : Store α) (k : Nat) :
    Store.get d (Store.insert k v (Store.drop m k)) k = v := by
  induction m with
  | nil => simp [Store.insert, Store.drop, Store.get]
  | cons e m ih =>
    obtain ⟨i, w⟩ := e
    by_cases hk : k = i
    · simpa [Store.drop, hk] using (hk ▸ ih)
    · by_cases hl : k < i
      · simp [Store.drop, Store.insert, Store.get, hk, hl]
      · simp [Store.drop, Store.insert, Store.get, hk, hl, ih]

variable [DecidableEq α]

/-- A read after a write to the same key gives the value written. -/
@[simp] theorem Store.get_put_same (d : Nat → α) (m : Store α) (k : Nat) (v : α) :
    Store.get d (Store.put d m k v) k = v := by
  unfold Store.put
  split
  · next h => simp [Store.get_drop_same, h]
  · exact Store.get_insert_same d v m k

/-- A write leaves every other key alone. -/
theorem Store.get_put_other (d : Nat → α) (m : Store α) {k j : Nat} (v : α) (h : j ≠ k) :
    Store.get d (Store.put d m k v) j = Store.get d m j := by
  unfold Store.put
  split
  · exact Store.get_drop_other d m h
  · rw [Store.get_insert_other d v _ h, Store.get_drop_other d m h]

/-! ### The canonical form -/

@[simp] theorem Store.wf_nil (d : Nat → α) : Store.wf d ([] : Store α) = true := rfl

omit [DecidableEq α] in
theorem Store.drop_all (q : Nat × α → Bool) (m : Store α) (k : Nat) (h : m.all q = true) :
    (Store.drop m k).all q = true := by
  induction m with
  | nil => rfl
  | cons e m ih =>
    obtain ⟨i, w⟩ := e
    simp only [List.all_cons, Bool.and_eq_true] at h
    have hm := ih h.2
    by_cases hk : k = i
    · subst hk
      simpa only [Store.drop, if_true] using hm
    · simp only [Store.drop, hk, if_false, List.all_cons, h.1, Bool.true_and]
      exact hm

theorem Store.drop_wf (d : Nat → α) (m : Store α) (k : Nat) (h : Store.wf d m = true) :
    Store.wf d (Store.drop m k) = true := by
  induction m with
  | nil => rfl
  | cons e m ih =>
    obtain ⟨i, w⟩ := e
    simp only [Store.wf, Bool.and_eq_true] at h
    by_cases hk : k = i
    · simpa [Store.drop, hk] using (hk ▸ ih h.2)
    · simp only [Store.drop, hk, if_false, Store.wf, Bool.and_eq_true]
      exact ⟨⟨h.1.1, Store.drop_all _ m k h.1.2⟩, ih h.2⟩

omit [DecidableEq α] in
theorem Store.insert_all (q : Nat × α → Bool) (k : Nat) (v : α) (m : Store α) (h : m.all q = true)
    (hk : q (k, v) = true) : (Store.insert k v m).all q = true := by
  induction m with
  | nil => simpa [Store.insert] using hk
  | cons e m ih =>
    obtain ⟨i, w⟩ := e
    simp only [List.all_cons, Bool.and_eq_true] at h
    by_cases hl : k < i
    · simpa [Store.insert, hl, hk] using h
    · simp only [Store.insert, hl, if_false, List.all_cons, h.1, Bool.true_and]
      exact ih h.2

omit [DecidableEq α] in
/-- No key of a table without `k` is `k`. -/
theorem Store.drop_keys (m : Store α) (k : Nat) : (Store.drop m k).all (fun e => decide (e.1 ≠ k)) = true := by
  induction m with
  | nil => rfl
  | cons e m ih =>
    obtain ⟨i, w⟩ := e
    by_cases hk : k = i
    · subst hk
      simpa only [Store.drop, if_true] using ih
    · have hi : decide (i ≠ k) = true := decide_eq_true fun h => hk h.symm
      simp only [Store.drop, hk, if_false, List.all_cons, hi, Bool.true_and]
      exact ih

theorem Store.insert_wf (d : Nat → α) (k : Nat) (v : α) (m : Store α) (h : Store.wf d m = true)
    (hv : v ≠ d k) (hk : m.all (fun e => decide (e.1 ≠ k)) = true) :
    Store.wf d (Store.insert k v m) = true := by
  induction m with
  | nil => simp [Store.insert, Store.wf, hv]
  | cons e m ih =>
    obtain ⟨i, w⟩ := e
    simp only [Store.wf, Bool.and_eq_true, decide_eq_true_eq] at h
    simp only [List.all_cons, Bool.and_eq_true, decide_eq_true_eq] at hk
    by_cases hl : k < i
    · have hall : m.all (fun e => decide (k < e.1)) = true := by
        rw [List.all_eq_true] at *
        intro e he
        have := of_decide_eq_true (h.1.2 e he)
        exact decide_eq_true (by omega)
      simp [Store.insert, hl, Store.wf, hv, h.1.1, h.1.2, h.2, hall]
    · have hi : i < k := by omega
      simp only [Store.insert, hl, if_false, Store.wf, Bool.and_eq_true, decide_eq_true_eq]
      exact ⟨⟨h.1.1, Store.insert_all _ k v m h.1.2 (decide_eq_true hi)⟩, ih h.2 hk.2⟩

/-- A write keeps the canonical form. -/
theorem Store.put_wf (d : Nat → α) (m : Store α) (k : Nat) (v : α) (h : Store.wf d m = true) :
    Store.wf d (Store.put d m k v) = true := by
  unfold Store.put
  split
  · exact Store.drop_wf d m k h
  · next hv => exact Store.insert_wf d k v _ (Store.drop_wf d m k h) hv (Store.drop_keys m k)

end Sys2Proof.Machine
end

