-- ==== Sys2Proof/Laws/Words.lean ====
section
/-! SUPPORT. Table Memory words: what a write leaves, and that a read among clean words delivers the stored value
and changes nothing. -/

namespace Sys2Proof.Machine

/-! ### Writes -/

@[simp] theorem wordAt_writeWord_same (a : Nat) (v : Word) (p : Part) :
    wordAt (writeWord a v p) a = freshWord v := by simp [wordAt, writeWord]

theorem wordAt_writeWord_other {a b : Nat} (v : Word) (p : Part) (h : b ≠ a) :
    wordAt (writeWord a v p) b = wordAt p b := by
  simp [wordAt, writeWord, Store.get_put_other _ _ _ h]

/-- R163: a word with a fresh code agrees with it. -/
@[simp] theorem checkWord_freshWord (v : Word) : checkWord (freshWord v) = .clean v := by
  simp [checkWord, freshWord]

theorem resetWord_clean (a : Nat) : checkWord (resetWord a) = .clean (resetWord a).value := by
  simp [resetWord, freshWord, checkWord]

/-! ### Clean words -/

theorem Store.get_all {α : Type} (d : Nat → α) (q : α → Prop) (m : Store α) (a : Nat)
    (hd : q (d a)) (hm : ∀ e ∈ m, q e.2) : q (Store.get d m a) := by
  induction m with
  | nil => exact hd
  | cons e m ih =>
    obtain ⟨i, w⟩ := e
    by_cases h : a = i
    · simpa [Store.get, h] using hm (i, w) (by simp)
    · simpa [Store.get, h] using ih fun e he => hm e (List.mem_cons_of_mem _ he)

/-- Among clean words every address holds a word that agrees with its code. -/
theorem wordsClean_at {p : Part} (h : wordsClean p = true) (a : Nat) :
    checkWord (wordAt p a) = .clean (wordAt p a).value := by
  refine Store.get_all resetWord (fun w => checkWord w = .clean w.value) p.tm.words a (resetWord_clean a) ?_
  simpa [wordsClean] using h

/-- R163: a clean read delivers the value and changes nothing. -/
theorem checkedRead_clean (rd : Reader) {p : Part} {a : Nat} {v : Word}
    (h : checkWord (wordAt p a) = .clean v) : checkedRead rd a p = (some v, p) := by
  simp [checkedRead, h]

theorem readConfig_clean (rd : Reader) (f : Nat) {p : Part} (h : wordsClean p = true) :
    readConfig rd f p = (deliveredField p f, p) := by
  simp [readConfig, checkedRead_clean rd (wordsClean_at h f), deliveredField, wordsClean_at h f]

theorem readTurbineA_clean (rd : Reader) (t : Nat) {p : Part} (h : wordsClean p = true) :
    readTurbineA rd t p = (some (wordAt p (turbineWordA t)).value, p) := by
  simp [readTurbineA, checkedRead_clean rd (wordsClean_at h _)]

theorem readTurbineB_clean (rd : Reader) (t : Nat) {p : Part} (h : wordsClean p = true) :
    readTurbineB rd t p = (some (wordAt p (turbineWordB t)).value, p) := by
  simp [readTurbineB, checkedRead_clean rd (wordsClean_at h _)]

theorem readEntry_clean (rd : Reader) (s : Nat) {p : Part} (h : wordsClean p = true) :
    readEntry rd s p = (wordByte (wordAt p (1952 + s / 4)).value (s % 4), p) := by
  simp [readEntry, checkedRead_clean rd (wordsClean_at h _)]

theorem readActive_clean (rd : Reader) (w : Nat) {p : Part} {n : Nat} (h : wordsClean p = true)
    (hn : p.rsq.activePage = some n) :
    readActive rd w p = (some (wordAt p (pageWordAddr n w)).value, p) := by
  simp [readActive, hn, checkedRead_clean rd (wordsClean_at h _)]

theorem readActive_part (rd : Reader) (w : Nat) {p : Part} (h : wordsClean p = true) :
    (readActive rd w p).2 = p := by
  unfold readActive
  split
  · rfl
  · simp [checkedRead_clean rd (wordsClean_at h _)]

theorem readActiveRun_part (rd : Reader) (r : Nat) {p : Part} (h : wordsClean p = true) (n k : Nat) :
    (readActiveRun rd r n k p).2 = p := by
  induction n generalizing k with
  | zero => rfl
  | succ n ih =>
    have h1 := readActive_part rd (rowWord r k) h
    unfold readActiveRun
    rcases hr : readActive rd (rowWord r k) p with ⟨_ | w, q⟩
    · simpa [hr] using h1
    · obtain rfl : q = p := by simpa [hr] using h1
      rcases hs : readActiveRun rd r n (k + 1) q with ⟨_ | ws, q'⟩ <;> simpa [hs] using ih (k + 1)

theorem rowMembers_part (rd : Reader) (r : Nat) {p : Part} (h : wordsClean p = true) :
    (rowMembers rd r p).2 = p := by
  have h1 := readActive_part rd (rowWord r 0) h
  unfold rowMembers
  rcases hr : readActive rd (rowWord r 0) p with ⟨_ | w, q⟩
  · simpa [hr] using h1
  · obtain rfl : q = p := by simpa [hr] using h1
    have h2 := readActiveRun_part rd r h (ceilDiv (memberCountOf w) 4) 1
    rcases hs : readActiveRun rd r (ceilDiv (memberCountOf w) 4) 1 q with ⟨_ | ws, q'⟩ <;>
      simpa [hs] using h2

theorem rowFeeders_part (rd : Reader) (r : Nat) {p : Part} (h : wordsClean p = true) :
    (rowFeeders rd r p).2 = p := by
  have h1 := readActive_part rd (rowWord r 0) h
  unfold rowFeeders
  rcases hr : readActive rd (rowWord r 0) p with ⟨_ | w, q⟩
  · simpa [hr] using h1
  · obtain rfl : q = p := by simpa [hr] using h1
    have h2 := readActiveRun_part rd r h (feederCountOf w) 5
    rcases hs : readActiveRun rd r (feederCountOf w) 5 q with ⟨_ | ws, q'⟩ <;> simpa [hs] using h2

theorem rowListing_part (rd : Reader) (t : Nat) {p : Part} (h : wordsClean p = true) (rs : List Nat) :
    (rowListing rd t rs p).2 = p := by
  induction rs with
  | nil => rfl
  | cons r rs ih =>
    unfold rowListing
    split
    · exact ih
    · have h1 := rowMembers_part rd r h
      rcases hr : rowMembers rd r p with ⟨_ | ms, q⟩ <;> obtain rfl : q = p := by simpa [hr] using h1
      · exact ih
      · dsimp only
        split
        · rfl
        · exact ih

theorem rowOf_part (rd : Reader) (t : Nat) {p : Part} (h : wordsClean p = true) : (rowOf rd t p).2 = p :=
  rowListing_part rd t h _

theorem mapFrom_part (a : Addr) {p : Part} (h : wordsClean p = true) (n t : Nat) : (mapFrom a n t p).2 = p := by
  induction n generalizing t with
  | zero => rfl
  | succ n ih =>
    unfold mapFrom
    split
    · exact ih _
    · rw [readTurbineA_clean .ti t h]
      dsimp only
      split
      · rfl
      · exact ih _

theorem mapAddress_part (a : Addr) {p : Part} (h : wordsClean p = true) : (mapAddress a p).2 = p :=
  mapFrom_part a h _ _

/-! ### An erroneous word -/

/-- R165: an uncorrectable read delivers nothing; it is counted, and captured unless frozen. -/
theorem checkedRead_damaged (rd : Reader) {p : Part} {a : Nat} (h : checkWord (wordAt p a) = .damaged) :
    checkedRead rd a p = (none, noteDamaged rd a p) := by simp [checkedRead, h]

/-- R164: a correctable read delivers the corrected value. -/
theorem checkedRead_corrected (rd : Reader) {p : Part} {a : Nat} {v : Word}
    (h : checkWord (wordAt p a) = .corrected v) :
    checkedRead rd a p = (some v, wearCheck (recordCorrected a (handWindowWrite a (writeWord a v p)))) := by
  simp [checkedRead, h]

/-- R70: a write of any other word is handed to no block. -/
theorem handWindowWrite_other {f : Nat} (p : Part) (h2 : f ≠ 2) (h3 : f ≠ 3) : handWindowWrite f p = p := by
  simp [handWindowWrite, Field.windowLength, Field.windowLimit, h2, h3]

theorem readWindowField_clean (f : Nat) {p : Part} (h : wordsClean p = true) :
    readWindowField f p = (deliveredField p f, p) := by
  simp [readWindowField, deliveredField, wordsClean_at h f]

/-- R70 over clean words: the list is revised by the two delivered fields. -/
theorem reviseWindow_clean {p : Part} (h : wordsClean p = true) :
    reviseWindow p =
      applyWindow (deliveredField p Field.windowLength) (deliveredField p Field.windowLimit) p := by
  simp [reviseWindow, readWindowField_clean _ h]

end Sys2Proof.Machine
end

