-- ==== Sys2Proof/Tests/Slice0.lean ====
section
/-! SUPPORT. Tests: figures worked in spec/, ill-formed operands refused, single commands on a small part, and
for each statement of Certificates/Slice0/Obligations.lean a state that meets the hypotheses of each clause. -/

namespace Sys2Proof.Tests

open Machine

/-! ### A small part in ENGAGED

Page 0 is ACTIVE and holds two rows: row 0 with turbines 1 and 2, row 1 with turbine 3 and feeder row 0 at 840 m.
The turbines stand at 0x1001 to 0x1003, NORMAL at offset 0; sector 0 names page 0. -/

def words : Store TmWord :=
  [(24, freshWord 0x80001001#32), (26, freshWord 0x80001002#32), (28, freshWord 0x80001003#32),
   (408, freshWord 2#32), (409, freshWord 0x02000002#32), (410, freshWord 0x01020000#32),
   (416, freshWord 0x012C0032#32), (417, freshWord 0x01010001#32), (418, freshWord 0x03000000#32),
   (422, freshWord 0x00000348#32), (424, freshWord 0x012C0032#32), (1952, freshWord 0x00FFFFFF#32)]

def closedRow : RowRec :=
  { state := .closed, grace := .stopped, settle := .stopped, lastOpening := none, holdUntil := 0, moved := false }

def realign : RealignRec :=
  { timer := .running 6000, pendingReload := none, credit := -8, exitDue := false, holdDues := 0,
    overrunAlerted := false, round := none }

def known : TurbineRec := { TurbineRec.cold with cond := .normal, yaw := some .ready }

def part : Part :=
  { Part.cold 0 with
    now := 1000
    wru := { Wru.cold with seeded := true, speedAcc := 1472, freshness := .running 300, activeSector := some 0 }
    ms := { Ms.cold with queues := [[], []] }
    rsq := { Rsq.cold with activePage := some 0, rows := [closedRow, closedRow] }
    se := { Se.cold with turbines := [(1, known), (2, known), (3, known)] }
    rau := { Rau.cold with records := [realign, realign] }
    tm := { Tm.cold with words := words, config := .valid, turbine := .valid, pages := [(0, .active)] }
    ma := { Ma.cold with mode := .engaged, silence := .running 100 } }

/-- The same tables in THROUGH, ready for ENGAGE. -/
def idlePart : Part :=
  { part with
    ms := Ms.cold, rsq := Rsq.cold, se := Se.cold, rau := Rau.cold, ma := Ma.cold
    tm := { part.tm with pages := [(0, .valid)] } }

def on (p : Part) : State := { part := p, pending := [], turns := 0 }

def setpoint (target : Int) : Setpoint :=
  { dst := 0x1001#16, src := 2#16, tag := 7#16, target := target, mode := .full, urgency := .normal }

def move (target : Int) (ph : MovePhase) : Move :=
  { sp := setpoint target, arrival := 1, phase := ph, resumed := false, firstFault := none }

/-- Turbine 1 has a QUEUED move to 60. -/
def queuedPart : Part :=
  { part with ms := { part.ms with slots := [(1, some (move 60 .queued))], queues := [[1], []], created := 1 } }

def openRow0 : RowRec :=
  { closedRow with state := .opened, grace := .running 300, lastOpening := some 1000 }

/-- Row 0 is OPEN over that move. -/
def openPart : Part :=
  { queuedPart with rsq := { queuedPart.rsq with rows := [openRow0, closedRow], window := [1000] } }

def step0 : Step := { seq := 0, commanded := 40, timeout := 500, timer := .running 500 }

def step1 : Step := { seq := 1, commanded := 60, timeout := 300, timer := .stopped }

def burst1 : Burst :=
  { turbine := 1, row := 0, phase := .running, gust := false, lock := false, lockTimer := .stopped,
    lockReached := false, steps := [step0] }

/-- Turbine 1's move is in BURST: the record `b`, released at `released`. -/
def burstWith (b : Burst) (released : Int) : Part :=
  { openPart with
    ms := { openPart.ms with slots := [(1, some (move 60 .burst))], queues := [[], []] }
    se := { openPart.se with
      turbines := [(1, { known with released := released, nextSeq := 2 }), (2, known), (3, known)]
      bursts := [b] } }

/-- One step outstanding, the second not yet released. -/
def burstPart : Part := burstWith burst1 40

/-- Both steps outstanding. -/
def twoSteps : Part := burstWith { burst1 with steps := [step0, step1] } 60

/-- One answer; four of them fill the list. -/
def answer : Answer := { dst := 1#16, parts := [[0#8, 0#8, 0#8, 0#8, 0x80#8]] }

def fullAnswers (p : Part) : Part := { p with ma := { p.ma with answers := [answer, answer, answer, answer] } }

def frame : Frame := { dst := 0x1009#16, src := 1#16, kind := 0x51#8, payload := [1#8] }

def qframe (o : Origin) : QFrame := { frame := frame, origin := o }

/-- An AIM payload with tag 7. -/
def aimBytes (target : Int) : List Byte := [0#8, 7#8] ++ be16 (BitVec.ofInt 16 target) ++ [0#8, 0#8]

/-- A STATE payload: speed, direction, applied offset, the named sequence or round, yaw status. -/
def stateBytes (speed direction : Nat) (applied : Int) (flags seq round yaw : Byte) : List Byte :=
  be16 (BitVec.ofNat 16 speed) ++ be16 (BitVec.ofNat 16 direction) ++ be16 (BitVec.ofInt 16 applied) ++
    [flags, seq, round, yaw]

/-- The state a command leaves. -/
def after (o : Host.Outcome State Fault Refusal) : State :=
  match o with
  | .next t => t
  | .fault f => nomatch f
  | .refused _ => State.reset

/-- The part a command leaves. -/
def run (c : Instr) (p : Part) : Part := (after (exec c (on p))).part

/-- The part with word `a` replaced. -/
def withWord (a : Nat) (w : TmWord) (p : Part) : Part :=
  { p with tm := { p.tm with words := Store.put resetWord p.tm.words a w } }

/-- Page 1 a copy of page 0. -/
def bothPages (p : Part) : Part :=
  { p with tm := { p.tm with words := [(24, freshWord 0x80001001#32), (26, freshWord 0x80001002#32),
    (28, freshWord 0x80001003#32), (408, freshWord 2#32), (409, freshWord 0x02000002#32),
    (410, freshWord 0x01020000#32), (416, freshWord 0x012C0032#32), (417, freshWord 0x01010001#32),
    (418, freshWord 0x03000000#32), (422, freshWord 0x00000348#32), (424, freshWord 0x012C0032#32),
    (601, freshWord 2#32), (602, freshWord 0x02000002#32), (603, freshWord 0x01020000#32),
    (609, freshWord 0x012C0032#32), (610, freshWord 0x01010001#32), (611, freshWord 0x03000000#32),
    (615, freshWord 0x00000348#32), (617, freshWord 0x012C0032#32), (1952, freshWord 0x00FFFFFF#32)] } }

/-! ### Figures of spec/ -/

/-- R174, 10.6: the published check values of the two CRCs over the digits 1 to 9. -/
theorem test_crc_of_digits :
    crc16 0xFFFF#16 [0x31, 0x32, 0x33, 0x34, 0x35, 0x36, 0x37, 0x38, 0x39] = 0x29B1#16 ∧
    crc16 0#16 [0x31, 0x32, 0x33, 0x34, 0x35, 0x36, 0x37, 0x38, 0x39] = 0x31C3#16 := by decide +kernel

/-- R75: the worked delay of 4.9. -/
theorem test_delay_worked_in_R75 : propagationDelay 840 92 205 = 1141 := by decide

/-- R3: the last word of page 7 and the first of the sector map. -/
theorem test_layout_of_table_memory :
    pageWordAddr 7 192 = 1951 ∧ tableBase .sectorMap = 1952 ∧ turbineWordB 192 = 407 ∧
    placeOf 1951 = (.page 7, 192) ∧ placeOf 1955 = (.sectorMap, 3) := by decide

/-- The table gives its rows no bits, so no word spells a command. -/
theorem test_no_word_spells_a_command : decodeTableWord 16 0 = none ∧ decodeTableWord 0 0 = none := by decide

theorem test_base_part_is_sound :
    part.canonical = true ∧ part.balanced = true ∧ part.ma.legal = true ∧ wordsClean part = true ∧
    calm part = true ∧ part.wru.inRange = true ∧ part.rau.inRange = true ∧ part.offsetsInRange = true ∧
    burstPart.canonical = true ∧ burstPart.balanced = true ∧ wordsClean burstPart = true := by decide

/-! ### Operands that do not fit their row -/

theorem test_long_payload_does_not_fit :
    Instr.wf (.aim 0#16 0#16 (List.replicate 201 0#8)) = false ∧
    Instr.wf (.aim 0#16 0#16 (List.replicate 200 0#8)) = true := by decide +kernel

theorem test_long_fields_do_not_fit :
    Instr.wf (.status 0#16 0#16 (List.replicate 198 0#8)) = false ∧
    Instr.wf (.status 0#16 0#16 (List.replicate 197 0#8)) = true := by decide +kernel

theorem test_row_24_does_not_fit :
    Instr.wf (.graceExpiry 24) = false ∧ Instr.wf (.graceExpiry 23) = true := by decide

theorem test_turbines_0_and_193_do_not_fit :
    Instr.wf (.stepTimeout 0) = false ∧ Instr.wf (.stepTimeout 193) = false ∧
    Instr.wf (.lockExpiry 192) = true := by decide

theorem test_frame_of_another_row_does_not_fit :
    Instr.wf (.forwardedFrame .c { frame with kind := kindAim }) = false ∧
    Instr.wf (.forwardedFrame .f { frame with kind := kindState }) = false ∧
    Instr.wf (.forwardedFrame .c { frame with kind := kindMreq, dst := broadcast }) = false ∧
    Instr.wf (.forwardedFrame .c frame) = true := by decide

theorem test_valid_frame_is_not_dropped :
    Instr.wf (.droppedFrame .c (frameBytes frame)) = false ∧
    Instr.wf (.droppedFrame .c (frameBytes frame ++ [0#8])) = true := by decide +kernel

theorem test_mreq_elsewhere_is_not_dropped_at_F :
    Instr.wf (.mreqDroppedAtF 0x7F10#16 0#16 []) = false ∧ Instr.wf (.mreqDroppedAtF 0x7F0F#16 0#16 []) = true ∧
    Instr.wf (.mreqMalformed 0#16 [0#8, 0#8, 0#8]) = false := by decide

theorem test_clear_kinds_and_request_kinds :
    Instr.wf (.clearStickyFlags 0#16 0#16 [1#8, 0#8]) = false ∧
    Instr.wf (.clearSuspectCondition 0#16 0#16 [0#8, 0#8]) = false ∧
    Instr.wf (.unknownRequestKind 15#8 0#16 0#16 []) = false ∧
    Instr.wf (.unknownRequestKind 16#8 0#16 0#16 []) = true := by decide

/-! ### Single commands -/

/-- 2.9, "Speed" and "Direction across north". -/
theorem test_smoothing_worked_in_2_9 :
    (smoothWind 100 20 { part.wru with dirAcc := 57440 }).speedAcc = 1488 ∧
    (smoothWind 100 20 { part.wru with dirAcc := 57440 }).dirAcc = 57500 ∧
    smoothedSpeed { part.wru with speedAcc := 1488 } = some 93 ∧
    smoothedDirection { part.wru with dirAcc := 57500 } = some 3594 := by decide

/-- 2.9, "Seeding": direction 3420 in THROUGH makes sector 15 active at once. -/
theorem test_seeding_worked_in_2_9 :
    (wruReport { speed := 92, direction := 3420, applied := 0, seq := none, round := none, yaw := .ready }
      { idlePart with wru := Wru.cold }).wru.activeSector = some 15 ∧
    (wruReport { speed := 92, direction := 3420, applied := 0, seq := none, round := none, yaw := .ready }
      { idlePart with wru := Wru.cold }).wru.dirAcc = 54720 := by decide

/-- R45: an AIM for turbine 1 is queued in its row. -/
theorem test_aim_creates_a_queued_move :
    (run (.aim 0x1001#16 2#16 (aimBytes 60)) part).ms.queues = [[1], []] ∧
    slot (run (.aim 0x1001#16 2#16 (aimBytes 60)) part) 1 = some (move 60 .queued) := by decide

/-- R44: +301 is taken as +300 and counted. -/
theorem test_aim_target_is_clamped :
    (slot (run (.aim 0x1001#16 2#16 (aimBytes 301)) part) 1).map (·.sp.target) = some 300 ∧
    (run (.aim 0x1001#16 2#16 (aimBytes 301)) part).ms.aimClamps = 1 := by decide

/-- R101: a FULL step is at most 40, so the second step of a move to 60 is commanded at 60. -/
theorem test_second_step_reaches_the_target :
    (burstOf (run .stepRelease burstPart) 1).map (fun b => b.steps.map (·.commanded)) = some [40, 60] := by decide

/-- R98, R101: the burst's first steps, to 40 and 60, leave at once. -/
theorem test_burst_start_releases_two_steps :
    (run .burstStart openPart).ti.f.insertion.map (fun q => q.frame.payload) =
      [[0#8, 7#8, 0#8, 0#8, 40#8, 0#8], [0#8, 7#8, 1#8, 0#8, 60#8, 0#8]] := by decide

/-- R67: the opening is stamped and enters the window. -/
theorem test_opening_stamps_the_row :
    (run .opening queuedPart).rsq.window = [1000] ∧ rowIs (run .opening queuedPart) 0 .opened = true := by decide

/-- R104: a report of sequence 0 at 39, within Tolerance of 40, confirms the step at its commanded offset. -/
theorem test_state_confirms_a_step :
    (turbineRec (run (.state 0x8000#16 0x1001#16 (stateBytes 92 0 39 1#8 0#8 0#8 0#8)) twoSteps) 1).confirmed = 40 ∧
    (run (.state 0x8000#16 0x1001#16 (stateBytes 92 0 39 1#8 0#8 0#8 0#8)) twoSteps).se.stepsConfirmed = 1 := by
  decide

/-- R151: ENGAGE builds the rows of page 0. -/
theorem test_engage_builds_two_rows :
    (run (.engage 1#16 2#16 []) idlePart).rsq.rows.length = 2 ∧
    (run (.engage 1#16 2#16 []) idlePart).ma.mode = .engaged := by decide

/-- R158: DISENGAGE forwards the live move. -/
theorem test_disengage_forwards_the_move :
    (run (.disengage 1#16 2#16 []) queuedPart).ms.forward = [⟨setpoint 60, false⟩] ∧
    (run (.disengage 1#16 2#16 []) queuedPart).ma.mode = .through := by decide

/-- R153, R78: HOLD drains an OPEN row. -/
theorem test_hold_drains_an_open_row :
    rowIs (run (.hold 1#16 2#16 []) burstPart) 0 .draining = true ∧
    stickySet (run (.hold 1#16 2#16 []) burstPart).ma .holdEntered = true := by decide

/-- R130, 6.11: the unanswered round 17 at credit 8 completes with a miss, and round 18 starts at once. -/
theorem test_next_round_starts_at_once :
    (let rd : Round := { kind := .owed, number := 17, timer := .running 0,
                         entries := [{ turbine := 1, sent := 0, status := .pending }] }
     let p := { part with
       rsq := { part.rsq with rows := [{ closedRow with state := .affirming }, closedRow] }
       rau := { part.rau with roundNumber := 17, records := [{ realign with credit := 8, round := some rd }, realign] } }
     let q := run (.roundTimerExpiry 0) p
     (turbineRec q 1).misses = 1 ∧ q.rau.roundsCompleted = 1 ∧ q.rau.roundsStarted = 1 ∧
     rowIs q 0 .affirming = true ∧ (realignAt q 0).map (·.credit) = some 7 ∧
     ((realignAt q 0).bind (·.round)).map (·.number) = some 18) := by decide +kernel

/-- 5.8, time 285: the last step of an ENDING burst confirms short of the target 60; the move is requeued and a new
burst starts in the same event, with one step of 20 back from 80, timeout 67 + 100. -/
theorem test_restart_worked_in_5_8 :
    (let b := { burst1 with phase := .ending, steps := [{ seq := 15, commanded := 80, timeout := 234, timer := .running 89 }] }
     let p := withWord 25 (freshWord 30#32) (burstWith b 80)
     let q := run (.state 0x8000#16 0x1001#16 (stateBytes 92 0 79 1#8 15#8 0#8 1#8))
       { p with se := { p.se with turbines := [(1, { known with released := 80, confirmed := 40 }), (2, known), (3, known)] } }
     (burstOf q 1).map (fun b => (b.phase, b.steps.map fun x => (x.seq, x.commanded, x.timer))) =
       some (.running, [(0, 60, .running 167)]) ∧
     (turbineRec q 1).released = 60 ∧ (turbineRec q 1).confirmed = 80 ∧ (turbineRec q 1).nextSeq = 1 ∧
     (slot q 1).map (·.resumed) = some true ∧ q.startsDue = false) := by decide +kernel

/-- R143, R78, R93: the last step of the last DRAINING row confirms, the row's settle is 0, and the switch is taken
before the FAULT of the same report makes the turbine SUSPECT; R114: the freed record starts a burst in between. -/
theorem test_switch_is_taken_before_stage_3 :
    (let p := withWord 1952 (freshWord 0x01FFFFFF#32) (withWord (pageWordAddr 0 (rowWord 0 7)) (freshWord 0x012C0000#32)
       (bothPages { burstWith { burst1 with phase := .ending } 40 with
         rsq := { openPart.rsq with
           rows := [{ closedRow with state := .draining }, closedRow]
           switch := some { target := 1, limit := .running 500, retargeted := false } }
         tm := { part.tm with pages := [(0, .active), (1, .valid)] } }))
     let q := run (.state 0x8000#16 0x1001#16 (stateBytes 92 0 40 1#8 0#8 0#8 3#8)) p
     q.ti.c.insertion.map (fun x => byteAt x.frame.payload 0) = [8#8, 2#8, 1#8] ∧ q.rsq.activePage = some 1 ∧
     condOf q 1 = .suspect ∧ q.se.bursts = [] ∧ q.startsDue = false) := by decide +kernel

/-- R108: the burst start that a gust pause held back comes with the pause's end. -/
theorem test_gust_end_starts_a_burst :
    (burstOf (run .gustTimerExpiry { openPart with wru := { openPart.wru with gust := .running 0 } }) 1).isSome = true := by
  decide +kernel

/-- R142: at a cancelled switch the PULL-IN round due on row 1 starts before row 0 opens. -/
theorem test_rounds_start_before_the_arbiter :
    (let q := cancelSwitch { queuedPart with
       rsq := { queuedPart.rsq with switch := some { target := 1, limit := .running 9, retargeted := false } }
       rau := { queuedPart.rau with records := [realign, { realign with credit := -7 }] } }
     rowIs q 0 .opened = true ∧ rowIs q 1 .affirming = true ∧ q.rsq.switch = none) := by decide +kernel

/-- R184: a request with four answers waiting is dropped and counted. -/
theorem test_fifth_request_is_dropped :
    (run (.status 1#16 2#16 []) (fullAnswers part)).ma.requestsDropped = 1 := by decide

/-- R61: a last opening 1,073,741,824 ds old is dropped, one a decisecond younger is kept. -/
theorem test_last_opening_age_bound :
    (rowAt (run (.lastOpeningAgeBound 0) { openPart with now := 1073742824 }) 0).map (·.lastOpening) = some none ∧
    (rowAt (run (.lastOpeningAgeBound 0) { openPart with now := 1073742823 }) 0).map (·.lastOpening) =
      some (some 1000) := by decide

/-! ### States that meet the hypotheses of the statements -/

/-- The command completes on the part. -/
def completes (c : Instr) (p : Part) : Bool :=
  match exec c (on p) with
  | .next _ => true
  | .fault _ => false
  | .refused _ => false

/-- The part with the freshness timer at zero. -/
def stalePart : Part := { part with wru := { part.wru with freshness := .running 0 } }

/-- A damaged word: two changed bits. -/
def damagedWord : TmWord := { value := 3#32, code := checkCode 0#32 }

/-- Every other word of a clean part stays clean. -/
theorem withWord_other {a b : Nat} (w : TmWord) {p : Part} (h : wordsClean p = true) (hb : b ≠ a) :
    checkWord (wordAt (withWord a w p) b) = .clean (wordAt (withWord a w p) b).value := by
  have same : wordAt (withWord a w p) b = wordAt p b := Store.get_put_other _ _ _ hb
  rw [same]
  exact wordsClean_at h b

theorem witness_StepTakesTheFrontCommand :
    ({ on stalePart with pending := [.freshnessExpiry, .scrub] } : State).pending = .freshnessExpiry :: [.scrub] := by
  decide

theorem witness_IdlePartGoesOnOfItself :
    (on part).pending = [] ∧ dueCommands (on part) = [] ∧
    (on stalePart).pending = [] ∧ dueCommands (on stalePart) = [.freshnessExpiry] ∧
    dueCommands (on { stalePart with tm := { part.tm with scrubTimer := .running 0 } }) =
      [.freshnessExpiry, .scrub] := by decide +kernel

/-- Timers one decisecond short of zero, and lists with nothing in them. -/
theorem witness_NothingDueNothingChanges :
    (let p := { burstPart with
       wru := { part.wru with freshness := .running 1, gust := .running 1, excursion := .running 1 }
       ma := { part.ma with silence := .running 1 }
       tm := { part.tm with scrubTimer := .running 1 } }
     p.wru.freshness.isDue = false ∧ p.wru.gust.isDue = false ∧ p.wru.excursion.isDue = false ∧
     p.ma.silence.isDue = false ∧ p.tm.scrubTimer.isDue = false ∧ p.rsq.switch = none ∧ openLoad p = none ∧
     p.ms.forward = [] ∧ p.ma.answers = [] ∧ graceDue p 0 = false ∧ settleDue p 0 = false ∧
     realignAt p 24 = none ∧ (realignAt p 0).bind (·.round) = none ∧ atHoldUntil p 0 = false ∧
     atRowCycle p 0 = false ∧ burstOf p 2 = none) ∧
    part.rsq.window = [] ∧ quiet part = true ∧
    (idlePart.ma.mode = .through ∧ idlePart.tm.config = .valid) ∧
    (State.reset.part.ma.mode = .through ∧ State.reset.part.tm.config ≠ .valid ∧
      gustPause State.reset.part = false) := by decide

/-- The command changes nothing: its timer exists and has not reached zero, or its time has not come. -/
theorem witness_NothingDueNothingChanges_not_due :
    (openPart.rsq.window = 1000 :: [] ∧
      (openPart.now - 1000).toNat < deliveredField openPart Field.windowLength) ∧
    realign.timer.isDue = false ∧ stepDue burst1 = false ∧ burst1.lockTimer.isDue = false ∧
    (Timer.running 500).isDue = false ∧ (Timer.running 50).isDue = false := by decide

/-- The first and last address of each range of R3 that the statement names. -/
theorem witness_ColdResetSetsTheTables :
    (0 < 24 ∧ 23 < 24) ∧ (24 ≤ 24 ∧ 24 < 1952) ∧ (24 ≤ 1951 ∧ 1951 < 1952) ∧ (1952 ≤ 1952 ∧ 1955 < 1956) ∧
    (tableBase .turbine = 24 ∧ tableBase .sectorMap = 1952 ∧ 1952 + tableSize .sectorMap = 1956) := by decide

/-- Two frames wait in each list of the C port, which sends from one of them, or from neither. -/
def twoFrames (source : Option Source) : Part :=
  { part with ti := { part.ti with c := { part.ti.c with
      sending := source, through := [frame, frame], insertion := [qframe .step, qframe .alert] } } }

theorem witness_ColdResetClearsTheBlocks :
    (∀ source ∈ [none, some .through, some .insertion], (portOf (twoFrames source) .c).sending = source ∧
      (portOf (twoFrames source) .c).through.length = 2 ∧ (portOf (twoFrames source) .c).insertion.length = 2) ∧
    part.ma.answers.length < 4 ∧ wordsClean (twoFrames (some .insertion)) = true := by decide

/-- A step with an effect, from a part that meets every invariant. -/
def stepping : State := { on stalePart with pending := [.freshnessExpiry] }

theorem witness_of_the_invariants :
    stepping.part.canonical = true ∧ stepping.part.balanced = true ∧ stepping.part.ma.legal = true ∧
    stepping.part.wru.inRange = true ∧ stepping.part.rau.inRange = true ∧ stepping.part.offsetsInRange = true ∧
    (after (step stepping)).part.wru.freshness = .stopped := by decide

theorem stepping_answers_next : step stepping = .next (after (step stepping)) := rfl

theorem witness_StepKeepsModeAndPage : stepping.part.pagesLegal := by
  refine ⟨fun n h => ?_, by decide, by decide⟩
  by_cases hn : n = 0
  · subst hn; rfl
  · have : pageValidity stepping.part n = .invalid .neverLoaded := by
      simp [pageValidity, stepping, on, stalePart, part, Store.get, hn, neverLoaded]
    rw [this] at h
    cases h

theorem witness_StepKeepsTheCapacities : stepping.part.bounded := by
  refine ⟨by decide, by decide, by decide, by decide, by decide, by decide, fun a => ?_, fun t b h => ?_, fun t => ?_⟩
  · simp [stepping, on, stalePart, part, Ms.cold]
  · simp [stepping, on, stalePart, part, Se.cold, burstOf] at h
  · show (if t = 1 then known else if t = 2 then known else if t = 3 then known else TurbineRec.cold).abandoned.length ≤ 2
    repeat' split
    all_goals decide

/-- Turbine 1's move is QUEUED in row 0, which lists turbines 1 and 2. -/
theorem witness_StepKeepsTheCapacities_of_queues : wordsClean openPart = true ∧ openPart.queuesSound := by
  have only : ∀ n, n ≠ 0 → pageValidity openPart n = .invalid .neverLoaded := fun n hn => by
    simp [pageValidity, openPart, queuedPart, part, Store.get, hn, neverLoaded]
  have one : ∀ t m, slot openPart t = some m → m = move 60 .queued := fun t m h => by
    by_cases ht : t = 1
    · subst ht; exact (Option.some.inj h).symm
    · simp [slot, openPart, queuedPart, Store.get, ht] at h
  refine ⟨by decide, by decide, ⟨fun n h => ?_, by decide, by decide⟩, fun r => ?_, ⟨?_, ?_⟩, ?_, ?_, ?_⟩
  · by_cases hn : n = 0
    · subst hn; rfl
    · rw [only n hn] at h; cases h
  · match r with
    | 0 =>
      refine ⟨by decide, fun t h => ?_⟩
      have : t = 1 := by simpa [queueAt, openPart, queuedPart] using h
      subst this
      exact ⟨by decide, move 60 .queued, rfl, rfl⟩
    | 1 => exact ⟨by decide, fun t h => absurd h (by simp [queueAt, openPart, queuedPart])⟩
    | r + 2 => exact ⟨by simp [queueAt, openPart, queuedPart], fun t h => absurd h (by simp [queueAt, openPart, queuedPart])⟩
  · intro b h; exact absurd h (by simp [openPart, queuedPart, part, Se.cold])
  · intro t m h hb; rw [one t m h] at hb; cases hb
  · intro c h; exact absurd h (by simp [openLoad, openPart, queuedPart, part, Ma.cold])
  · intro n h
    have : n = 0 := (Option.some.inj h).symm
    subst this
    exact ⟨by decide, rfl⟩
  · intro sw h; exact absurd h (by simp [openPart, queuedPart, part, Rsq.cold])

theorem witness_ThroughIsLeftByEngageAlone :
    Instr.wf (.engage 1#16 2#16 []) = true ∧ idlePart.ma.mode = .through ∧
    completes (.engage 1#16 2#16 []) idlePart = true ∧
    (run (.engage 1#16 2#16 []) idlePart).ma.mode ≠ .through ∧ idlePart.ms.slots = [] := by decide

/-- The largest usable speed and direction, a seeded and an unseeded part, and commands of each outcome. -/
theorem witness_SmoothingOfTheWind :
    (400 ≤ 400 ∧ 3599 ≤ 3599) ∧ part.wru.seeded = true ∧ part.wru.inRange = true ∧ Wru.cold.seeded = false ∧
    ({ part.wru with dirAcc := 57592 } : Wru).inRange = true ∧
    (let rep : Report := { speed := 400, direction := 3599, applied := 0, seq := none, round := none, yaw := .ready }
     wruRuns part = true ∧ usableReport rep = true) ∧
    (Instr.wf .freshnessExpiry = true ∧ completes .freshnessExpiry stalePart = true) ∧
    (let l := stateBytes 400 3599 0 0#8 0#8 0#8 0#8
     Instr.wf (.state 9#16 0x1001#16 l) = true ∧ completes (.state 9#16 0x1001#16 l) part = true ∧
     usableReport (reportOf l) = true) := by decide

/-- R63 holds of row 0 of the queued part, and of row 1, whose feeder is row 0, once row 0 has no startable
move. -/
theorem witness_EligibleRowsAndTheArbiter :
    wordsClean queuedPart = true ∧ rowAt queuedPart 0 = some closedRow ∧
    (rowFeeders .rsq 0 queuedPart).1 = some [] ∧ (eligible 0 queuedPart).1 = true ∧
    (rowFeeders .rsq 1 queuedPart).1 = some [(0, 840)] ∧ (eligible 1 queuedPart).1 = false ∧
    queuedPart.rsq.activePage = some 0 ∧ queuedPart.rsq.rows.length ≤ 24 := by decide

def fullC : Part :=
  { part with ti := { part.ti with c := { part.ti.c with insertion := List.replicate 8 (qframe .alert) } } }

theorem witness_AlertsAreStampedAndSent :
    ({ fullC with ti := { fullC.ti with c := { fullC.ti.c with
      insertion := fullC.ti.c.insertion.drop 1 } } } : Part).ti.c.insertion.length < 8 ∧
    8 ≤ fullC.ti.c.insertion.length := by decide

theorem witness_CheckedReads :
    (let p := withWord 5 { value := 204#32, code := checkCode 205#32 } part
     checkWord (wordAt p 5) = .corrected 205#32 ∧ checkWord (wordAt p 2) = .clean 6000#32 ∧
     checkWord (wordAt p 3) = .clean 4#32 ∧ checkWord (wordAt p 22) = .clean 0#32) ∧
    (let p := withWord 5 { value := 204#32, code := checkCode 205#32 } (withWord 22 (freshWord 1#32) part)
     checkWord (wordAt p 5) = .corrected 205#32 ∧ checkWord (wordAt p 22) = .clean 1#32) ∧
    (let p := withWord 2 { value := 6001#32, code := checkCode 6000#32 } openPart
     checkWord (wordAt p 2) = .corrected 6000#32 ∧ checkWord (wordAt p 3) = .clean 4#32 ∧
     checkWord (wordAt p 22) = .clean 0#32 ∧ p.rsq.window = [1000]) ∧
    (let p := withWord 3 { value := 5#32, code := checkCode 4#32 } openPart
     checkWord (wordAt p 3) = .corrected 4#32 ∧ checkWord (wordAt p 2) = .clean 6000#32) ∧
    (let p := withWord 22 { value := 1#32, code := checkCode 0#32 } part
     checkWord (wordAt p 22) = .corrected 0#32 ∧ checkWord (wordAt p 3) = .clean 4#32) ∧
    (let p := withWord 5 damagedWord part
     checkWord (wordAt p 5) = .damaged ∧ p.tm.captureFrozen = false) := by decide +kernel

/-- Seven bytes, a length that disagrees, and a wrong frame check. -/
theorem witness_DroppedAndForwardedFrames :
    (List.replicate 7 (0#8 : Byte)).length < 8 ∧
    (let l := frameBytes frame
     l.length = 8 + (byteAt l 5).toNat ∧ (l ++ [0#8]).length ≠ 8 + (byteAt (l ++ [0#8]) 5).toNat) ∧
    (let l := frameBody frame ++ [0#8, 0#8]
     l.length = 8 + (byteAt l 5).toNat ∧
     crc16 0xFFFF#16 (l.take (6 + (byteAt l 5).toNat)) ≠ pairAt l (6 + (byteAt l 5).toNat)) ∧
    0x7F00#16 = ownAddress part ∧ [0#8, 7#8].length < 3 ∧
    (frame.kind ≠ kindState ∧ frame.kind ≠ kindAim ∧ frame.kind ≠ kindMreq) ∧
    part.ti.c.through.length < 64 ∧ 64 ≤ (List.replicate 64 frame).length := by decide +kernel

/-- A frame of 201 payload bytes whose length and frame check agree. -/
theorem witness_of_a_long_frame :
    let l := frameBytes { frame with payload := List.replicate 201 0#8 }
    l.length = 8 + (byteAt l 5).toNat ∧
    crc16 0xFFFF#16 (l.take (6 + (byteAt l 5).toNat)) = pairAt l (6 + (byteAt l 5).toNat) ∧
    200 < (byteAt l 5).toNat := by
  have two : ∀ c : BitVec 16, c.extractLsb' 8 8 ++ c.extractLsb' 0 8 = c := by
    intro c
    refine BitVec.eq_of_getLsbD_eq fun i hi => ?_
    rw [BitVec.getLsbD_append, BitVec.getLsbD_extractLsb', BitVec.getLsbD_extractLsb']
    by_cases h : i < 8
    · simp [h]
    · have : i - 8 < 8 := by omega
      simp [h, this, show 8 + (i - 8) = i by omega]
  have agree : ∀ (body : List Byte) (c : BitVec 16), body.length = 207 →
      (body ++ be16 c).take 207 = body ∧ pairAt (body ++ be16 c) 207 = c := by
    intro body c h
    have byte : ∀ i, byteAt (body ++ be16 c) (207 + i) = byteAt (be16 c) i := by
      intro i
      rw [byteAt, byteAt, List.getD_eq_getElem?_getD, List.getD_eq_getElem?_getD,
        List.getElem?_append_right (by omega), show 207 + i - body.length = i by omega]
    refine ⟨by simp [h], ?_⟩
    exact (congr (congrArg HAppend.hAppend (byte 0)) (byte 1)).trans (two c)
  obtain ⟨h1, h2⟩ := agree (frameBody { frame with payload := List.replicate 201 0#8 })
    (crc16 0xFFFF#16 (frameBody { frame with payload := List.replicate 201 0#8 })) (by decide +kernel)
  have len : (byteAt (frameBytes { frame with payload := List.replicate 201 0#8 }) 5).toNat = 201 := by
    decide +kernel
  simp only [len]
  refine ⟨?_, ?_, by decide⟩
  · exact (List.length_append).trans (by decide +kernel)
  · exact (congrArg (crc16 0xFFFF#16) h1).trans h2.symm

/-- HOLD by silence, with and without a CONFIG load open; HOLD by command. -/
def silenced : Part := { part with ma := { part.ma with mode := .hold, holdCause := some .silence, silence := .stopped } }

def commanded : Part := { silenced with ma := { silenced.ma with holdCause := some .command } }

theorem witness_ArrivalsReachTheModeRecord :
    idlePart.ma.mode = .through ∧ (commanded.ma.mode = .hold ∧ commanded.ma.holdCause ≠ some .silence) ∧
    (wordsClean part = true ∧ calm part = true ∧ part.ma.mode = .engaged) ∧
    (wordsClean silenced = true ∧ calm silenced = true ∧ silenced.ma.mode = .hold ∧
      silenced.ma.holdCause = some .silence ∧ silenced.ma.exitDeferred = false ∧ loadHoldsMode silenced = false) ∧
    (let p := { silenced with tm := { silenced.tm with config := .loading } }
     wordsClean p = true ∧ calm p = true ∧ loadHoldsMode p = true) := by decide

def sendingThrough : Part :=
  { part with ti := { part.ti with f := { part.ti.f with
      through := [frame], sending := some .through, servedLast := .through } } }

def sendingAim : Part :=
  { part with ti := { part.ti with f := { part.ti.f with
      insertion := [qframe (.forwarded true)], sending := some .insertion } }
              ms := { part.ms with inFlight := [frame.dst] } }

theorem witness_FramesLeaveTheirPort :
    (portOf part .c).sending = none ∧
    ((portOf sendingThrough .f).sending = some .through ∧ (portOf sendingThrough .f).through = frame :: []) ∧
    ((portOf sendingAim .f).sending = some .insertion ∧
      (portOf sendingAim .f).insertion = qframe (.forwarded true) :: [] ∧
      (qframe (.forwarded true)).origin = .forwarded true) ∧
    (∀ b, (qframe .step).origin ≠ .forwarded b) ∧
    (let ps : PortState := { PortState.cold with through := [frame], insertion := [qframe .step] }
     ps.sending = none ∧ ps.through ≠ [] ∧ ps.servedLast = .insertion ∧ ps.insertion ≠ [] ∧
     { ps with servedLast := .through }.servedLast = .through) := by
  refine ⟨by decide, by decide, by decide, fun b => by cases b <;> decide, by decide⟩

def report (applied : Int) (seq : Option (BitVec 4)) (yaw : YawStatus) : Report :=
  { speed := 92, direction := 0, applied := applied, seq := seq, round := none, yaw := yaw }

/-- One above either bound, and the invalid marker. -/
theorem witness_UnusableReportsAreIgnored :
    usableReport { report 0 none .ready with speed := 401 } = false ∧
    usableReport { report 0 none .ready with direction := 3600 } = false ∧
    usableReport { report 0 none .ready with speed := 0xFFFF, direction := 0xFFFF } = false ∧
    usableReport { report 0 none .ready with speed := 400, direction := 3599 } = true := by decide

theorem witness_PropagationDelay :
    (50 ≤ 50 ∧ 5000 ≤ 5000 ∧ 30 ≤ 30 ∧ 250 ≤ 250 ∧ 128 ≤ 128 ∧ 256 ≤ 256) ∧
    smoothedSpeed Wru.cold = none ∧ smoothedSpeed part.wru = some 92 ∧
    smoothedSpeed { part.wru with speedAcc := 480 } = some 30 ∧
    smoothedSpeed { part.wru with speedAcc := 4000 } = some 250 ∧
    wordsClean part = true ∧ rowAt part 1 = some closedRow ∧
    (let p := { part with rsq := { part.rsq with rows := [{ closedRow with moved := true }, closedRow] } }
     wordsClean p = true ∧ rowAt p 0 = some { closedRow with moved := true } ∧
     (rowFeeders .rsq 1 p).1 = some [(0, 840)] ∧ [(0, 840)].find? (fun x => x.1 == 0) = some (0, 840)) ∧
    settleDue { part with rsq := { part.rsq with
      rows := [{ closedRow with state := .settling, settle := .running 0 }, closedRow] } } 0 = true ∧
    atHoldUntil { part with now := 0 } 0 = true := by decide

theorem witness_FeederRuleAndPermission :
    rowAt queuedPart 0 = some closedRow ∧ (∀ t ∈ queueAt part 0, condOf part t ≠ .normal) ∧
    rowFeeders .rsq 1 queuedPart = (some [(0, 840)], queuedPart) ∧
    rowFeeders .rsq 0 queuedPart = (some [], queuedPart) ∧
    realignAt part 0 = some realign ∧
    permission { part with rau := { part.rau with records := [{ realign with credit := 4 }] } } 0 = false ∧
    permission { part with rau := { part.rau with records := [{ realign with credit := 3 }] } } 0 = true := by decide

/-- The lowest and the highest turbine number, and an address no entry holds. -/
theorem witness_AddressMapping :
    wordsClean part = true ∧ (mapAddress 0x1001#16 part).1 = some 1 ∧ (mapAddress 0x1009#16 part).1 = none ∧
    (let p := { part with tm := { part.tm with words := [(24 + 2 * 191, freshWord 0x80001001#32)] } }
     wordsClean p = true ∧ (mapAddress 0x1001#16 p).1 = some 192) := by decide +kernel

/-- The longest payload. -/
theorem witness_FramesReadBack : ({ frame with payload := List.replicate 200 0#8 } : Frame).payload.length ≤ 200 := by
  decide +kernel

/-- An AIM in THROUGH, one for no turbine, one for a bypassed turbine, and one for a turbine no row lists. -/
theorem witness_AimsPassThrough :
    (wordsClean idlePart = true ∧ waitsBehindForward idlePart 0x1001#16 = false ∧ idlePart.ma.mode = .through) ∧
    (wordsClean part = true ∧ waitsBehindForward part 0x1009#16 = false ∧
      (mapAddress 0x1009#16 part).1 = none) ∧
    (ownAddress part = 0x7F00#16 ∧ waitsBehindForward part 0x7F00#16 = false ∧
      (mapAddress 0x7F00#16 part).1 = none) ∧
    (let p := { part with tm := { part.tm with words := words.take 1 ++ [(25, freshWord 0x80000000#32)] ++ words.drop 1 } }
     wordsClean p = true ∧ (mapAddress 0x1001#16 p).1 = some 1 ∧
     bypassOf (wordAt p (turbineWordB 1)).value = true) ∧
    (let p := { part with tm := { part.tm with words := words.take 3 ++ [(30, freshWord 0x80001004#32)] ++ words.drop 3 } }
     wordsClean p = true ∧ (mapAddress 0x1004#16 p).1 = some 4 ∧ (rowOf .ti 4 p).1 = none) ∧
    part.ti.f.through.length < 64 ∧
    64 ≤ { part.ti.f with through := List.replicate 64 frame }.through.length := by decide +kernel

/-- An entry waits for 0x1001; one is in flight; the forward list is full. -/
def waiting : Part := { idlePart with ms := { idlePart.ms with forward := [⟨setpoint 60, false⟩] } }

def inFlight : Part := { idlePart with ms := { idlePart.ms with inFlight := [0x1001#16] } }

def fullForward : Part :=
  { inFlight with ms := { inFlight.ms with forward := List.replicate 192 ⟨{ setpoint 60 with dst := 0x1009#16 }, false⟩ } }

theorem witness_AimsWaitBehindForwardEntries :
    (waitsBehindForward waiting 0x1001#16 = true ∧ forwardListHas waiting 0x1001#16 = true) ∧
    (waitsBehindForward inFlight 0x1001#16 = true ∧ forwardListHas inFlight 0x1001#16 = false ∧
      inFlight.ms.forward.length < 192) ∧
    (forwardListHas fullForward 0x1001#16 = false ∧ fullForward.ms.forward.length = 192 ∧
      waitsBehindForward fullForward 0x1001#16 = true) ∧
    (aimBytes 60).length = 6 ∧ ((aimBytes 60).take 5).length < 6 ∧ waiting.ma.mode = .through ∧
    (let p := { part with ms := { part.ms with forward := [⟨{ setpoint 60 with dst := 0x1009#16 }, false⟩] } }
     p.ma.mode = .engaged ∧ wordsClean p = true ∧ waitsBehindForward p 0x1009#16 = true ∧
     (mapAddress 0x1009#16 p).1 = none) ∧
    (let p := withWord 25 (freshWord 0x80000000#32) { part with ms := inFlight.ms }
     p.ma.mode = .engaged ∧ wordsClean p = true ∧ waitsBehindForward p 0x1001#16 = true ∧
     (mapAddress 0x1001#16 p).1 = some 1 ∧ bypassOf (wordAt p (turbineWordB 1)).value = true) := by decide +kernel

/-- A short AIM for a turbine of row 0. -/
theorem witness_AimsPassThroughOrWait_short :
    wordsClean part = true ∧ waitsBehindForward part 0x1001#16 = false ∧ Machine.sequencing part = true ∧
    (mapAddress 0x1001#16 part).1 = some 1 ∧ bypassOf (wordAt part (turbineWordB 1)).value = false ∧
    (rowOf .ti 1 part).1 = some 0 ∧ ((aimBytes 60).take 5).length < 6 := by decide

theorem witness_AimFieldsBroughtIntoRange :
    (rawAim { frame with payload := aimBytes (-301) }).target < -300 ∧
    300 < (rawAim { frame with payload := aimBytes 301 }).target ∧
    (rawAim { frame with payload := aimBytes (-300) }).target = -300 ∧
    (rawAim { frame with payload := aimBytes 300 }).target = 300 := by decide

/-- Turbines 1 and 2 with a QUEUED move each, in order; turbine 1's stays NORMAL, or becomes HIGH. -/
theorem witness_AimsSupersedeMoves_place :
    (let p := { queuedPart with ms := { queuedPart.ms with
       slots := [(1, some { move 60 .queued with arrival := 2 }), (2, some (move 60 .queued))], queues := [[2, 1], []] } }
     wordsClean p = true ∧ Machine.sequencing p = true ∧ (mapAddress 0x1001#16 p).1 = some 1 ∧
     bypassOf (wordAt p (turbineWordB 1)).value = false ∧ (rowOf .ti 1 p).1 = some 0 ∧
     slot p 1 = some { move 60 .queued with arrival := 2 } ∧ 1 ∈ queueAt p 0 ∧ 1 ∉ queueAt p 1 ∧
     (queueAt p 0).Pairwise (fun a b => turbineBefore p a b = true) ∧
     (setpointOf (rawAim { frame with payload := aimBytes 100 })).urgency = (setpoint 60).urgency ∧
     (setpointOf (rawAim { frame with payload := (aimBytes 100).set 5 1#8 })).urgency ≠ (setpoint 60).urgency ∧
     (setpointOf (rawAim { frame with payload := aimBytes 100 })).target ≠ (turbineRec p 1).released) := by decide

/-- The target differs from the released offset, and equals it; a field is replaced, and none is. -/
theorem witness_AimsCreateMoves :
    wordsClean part = true ∧ Machine.sequencing part = true ∧ (mapAddress 0x1001#16 part).1 = some 1 ∧
    bypassOf (wordAt part (turbineWordB 1)).value = false ∧ (rowOf .ti 1 part).1 = some 0 ∧
    0 < part.ms.queues.length ∧ 6 ≤ (aimBytes 60).length ∧ slot part 1 = none ∧
    ((turbineRec part 1).cond = .normal ∧
      (setpointOf (rawAim { frame with payload := aimBytes 0 })).target = (turbineRec part 1).released) ∧
    (setpointOf (rawAim { frame with payload := aimBytes 60 })).target ≠ (turbineRec part 1).released ∧
    aimReplaced (rawAim { frame with payload := aimBytes 301 }) = true ∧
    aimReplaced (rawAim { frame with payload := aimBytes 60 }) = false := by decide

/-- A QUEUED move; a move in BURST released at 40, with a step outstanding and with none, whose new target lies at 100
beyond it, at it, and at 20 behind it; a PAUSED and an ENDING burst. -/
theorem witness_AimsSupersedeMoves :
    (wordsClean queuedPart = true ∧ Machine.sequencing queuedPart = true ∧
      (mapAddress 0x1001#16 queuedPart).1 = some 1 ∧ (rowOf .ti 1 queuedPart).1 = some 0 ∧
      slot queuedPart 1 = some (move 60 .queued)) ∧
    (wordsClean burstPart = true ∧ Machine.sequencing burstPart = true ∧
      (mapAddress 0x1001#16 burstPart).1 = some 1 ∧
      bypassOf (wordAt burstPart (turbineWordB 1)).value = false ∧ (rowOf .ti 1 burstPart).1 = some 0 ∧
      slot burstPart 1 = some (move 60 .burst) ∧ burstOf burstPart 1 = some burst1 ∧ burst1.phase ≠ .ending ∧
      burst1.steps ≠ [] ∧ burst1.lockReached = false ∧ burst1.row < burstPart.ms.queues.length) ∧
    (let x := turbineRec burstPart 1
     (x.released - x.confirmed).sign = 1 ∧ (60 - x.released).sign = 1 ∧
     [100, 40, 20].map (fun n => ((setpointOf (rawAim { frame with payload := aimBytes n })).target - x.released).sign) =
       [1, 0, -1]) ∧
    (let p := burstWith { burst1 with steps := [] } 40
     burstOf p 1 = some { burst1 with steps := [] } ∧ (turbineRec p 1).released = 40 ∧ (move 60 .burst).sp.target = 60) ∧
    burstOf (burstWith { burst1 with phase := .paused } 40) 1 = some { burst1 with phase := .paused } ∧
    burstOf (burstWith { burst1 with phase := .ending } 40) 1 = some { burst1 with phase := .ending } := by decide

/-- A short STATE, one from 0x1009, and one from turbine 1, alone and as RefTurbine1. -/
theorem witness_StateFramesAreCopied :
    stateWellFormed (stateBytes 92 0 0 0#8 0#8 0#8 4#8) = false ∧
    stateWellFormed (stateBytes 92 0 0 1#8 16#8 0#8 0#8) = false ∧
    stateWellFormed (stateBytes 92 0 0 0#8 16#8 0#8 3#8) = true ∧
    (wordsClean part = true ∧ (mapAddress 0x1009#16 part).1 = none ∧ (mapAddress 0x1001#16 part).1 = some 1) ∧
    1 ∉ [10, 11, 12, 13].map (deliveredField part) ∧
    (let p := withWord 10 (freshWord 1#32) part
     wordsClean p = true ∧ (mapAddress 0x1001#16 p).1 = some 1 ∧ 1 ∈ [10, 11, 12, 13].map (deliveredField p)) := by
  decide +kernel

/-- Smoothed 92 and GustMargin 40: 133 is a gust, 132 is none. -/
theorem witness_ReportsInThrough :
    wordsClean idlePart = true ∧ idlePart.ma.mode = .through ∧ idlePart.tm.config = .valid ∧
    usableReport (report 0 none .ready) = true ∧ smoothedSpeed idlePart.wru = some 92 ∧
    92 + deliveredField idlePart Field.gustMargin < 133 ∧ ¬ 92 + deliveredField idlePart Field.gustMargin < 132 ∧
    idlePart.wru.activeSector = some 0 := by decide

/-- The start of a gust pause over an OPEN row and a RUNNING burst, a pending entry, and no active sector yet. -/
theorem witness_ReportsInThrough_engaged :
    wordsClean burstPart = true ∧ Machine.sequencing burstPart = true ∧
    usableReport { report 0 none .ready with speed := 133 } = true ∧ smoothedSpeed burstPart.wru = some 92 ∧
    92 + deliveredField burstPart Field.gustMargin < 133 ∧ gustPause burstPart = false ∧
    burst1.phase = .running ∧ rowIs burstPart 0 .opened = true ∧ burstPart.tm.pendingEntry = none ∧
    { burstPart.tm with pendingEntry := some (0, 1#8) }.pendingEntry = some (0, 1#8) ∧
    gustPause { burstPart with wru := { burstPart.wru with gust := .running 5 } } = true ∧
    { part.wru with activeSector := none }.activeSector = none := by decide

def switching (target : Nat) (limit : Nat) : Part :=
  { part with
    rsq := { part.rsq with switch := some { target := target, limit := .running limit, retargeted := false } }
    tm := { part.tm with pages := [(0, .active), (1, .valid)] } }

/-- The part with `entry` in sector 0. -/
def planned (entry : Word) (p : Part) : Part :=
  { p with tm := { p.tm with words := words.take 11 ++ [(1952, freshWord entry)] } }

theorem witness_SpanTestAndPlanCheck :
    (wordsClean part = true ∧ 0 < 16 ∧ 0 < 3600 ∧ Machine.sequencing part = true ∧
      part.wru.activeSector = some 0) ∧
    (((274 : Int) - 225 * 0 + 50) % 3600 ≤ 224 + 2 * 50 ∧ ¬ ((275 : Int) - 225 * 0 + 50) % 3600 ≤ 224 + 2 * 50 ∧
      part.wru.excursion.isRunning = false ∧
      { part.wru with excursion := .running 5 }.excursion.isRunning = true) ∧
    (entryPage (wordByte (wordAt part 1952).value 0) = some 0 ∧ pageValidity part 0 = .active) ∧
    (let p := planned 0x01FFFFFF#32 { switching 1 500 with rsq := part.rsq }
     wordsClean p = true ∧ entryPage (wordByte (wordAt p 1952).value 0) = some 1 ∧
     pageValidity p 1 = .valid ∧ p.rsq.switch = none) ∧
    (let p := planned 0x01FFFFFF#32 (switching 1 500)
     entryPage (wordByte (wordAt p 1952).value 0) = some 1 ∧ (p.rsq.switch.map (·.target)) = some 1) ∧
    (let p := planned 0x01FFFFFF#32 (switching 2 500)
     entryPage (wordByte (wordAt p 1952).value 0) = some 1 ∧ (p.rsq.switch.map (·.target)) = some 2) ∧
    (let p := switching 1 500
     wordsClean p = true ∧ entryPage (wordByte (wordAt p 1952).value 0) = some 0 ∧ pageValidity p 0 = .active ∧
     p.rsq.switch ≠ none) ∧
    (let p := planned 0xFFFFFFFF#32 (switching 1 500)
     wordsClean p = true ∧ entryPage (wordByte (wordAt p 1952).value 0) = none ∧ p.rsq.switch ≠ none) ∧
    (let p := planned 0xFFFFFFFF#32 part
     wordsClean p = true ∧ entryPage (wordByte (wordAt p 1952).value 0) = none ∧ p.wru.planMissing = false) ∧
    (let p := planned 0x07FFFFFF#32 part
     entryPage (wordByte (wordAt p 1952).value 0) = some 7 ∧ pageValidity p 7 = .invalid .neverLoaded) ∧
    { (switching 1 500).wru with planMissing := true }.planMissing = true := by
  decide +kernel

/-- The pending target is VALID, is another page, and is LOADING. -/
theorem witness_SpanTestAndPlanCheck_page_changes :
    (switching 1 500).rsq.switch = some { target := 1, limit := .running 500, retargeted := false } ∧
    pageValidity (switching 1 500) 1 = .valid ∧ 1 ≠ 2 ∧ part.rsq.switch = none ∧
    (let p := { switching 1 500 with tm := { part.tm with pages := [(0, .active), (1, .loading)] } }
     p.rsq.switch = some { target := 1, limit := .running 500, retargeted := false } ∧ pageValidity p 1 ≠ .valid) := by
  decide

/-- Turbine 1 not yet seen, with a QUEUED move to 60. -/
def unseenPart : Part :=
  { queuedPart with se := { queuedPart.se with turbines := [(2, known), (3, known)] } }

theorem witness_FirstStateOfATurbine :
    wordsClean unseenPart = true ∧ Machine.sequencing unseenPart = true ∧
    bypassOf (wordAt unseenPart (turbineWordB 1)).value = false ∧ (rowOf .se 1 unseenPart).1 = some 0 ∧
    condOf unseenPart 1 = .unseen ∧ burstOf unseenPart 1 = none ∧
    slot unseenPart 1 = some (move 60 .queued) ∧ (move 60 .queued).sp.target = (report 60 none .ready).applied ∧
    (move 60 .queued).sp.target ≠ (report 59 none .fault).applied := by decide

/-- Turbine 1 bypassed, with a late sequence and with none; turbine 1 in a FENCED row. -/
theorem witness_FirstStateOfATurbine_passed_through :
    (let p := withWord 25 (freshWord 0x80000000#32) { part with se := { part.se with
        turbines := [(1, { known with abandoned := [9#4] }), (2, known), (3, known)] } }
     wordsClean p = true ∧ Machine.sequencing p = true ∧ bypassOf (wordAt p (turbineWordB 1)).value = true ∧
     burstOf p 1 = none ∧ slot p 1 = none ∧ (turbineRec p 1).abandoned.contains 9#4 = true ∧ p.startsDue = false) ∧
    (let p := { queuedPart with rsq := { queuedPart.rsq with rows := [{ closedRow with state := .fenced }, closedRow] } }
     wordsClean p = true ∧ Machine.sequencing p = true ∧ (rowOf .se 1 p).1 = none ∧ burstOf p 1 = none ∧
     (turbineRec p 1).abandoned.contains 9#4 = false ∧ p.startsDue = false) := by decide

def twoStepsBurst (ph : BurstPhase) : Burst := { burst1 with steps := [step0, step1], phase := ph }

/-- The second step confirmed at the target, with its lock limit reached or not, the applied offset at the edge of
Tolerance; the first of two, in a RUNNING and a PAUSED burst; the only step of an ENDING and of a RUNNING burst short of
its target. -/
theorem witness_StepConfirmation :
    (wordsClean twoSteps = true ∧ burstOf twoSteps 1 = some (twoStepsBurst .running) ∧
      slot twoSteps 1 = some (move 60 .burst) ∧ (move 60 .burst).phase = .burst ∧
      (twoStepsBurst .running).steps.findIdx? (fun y => y.seq == 1#4) = some 1 ∧
      (twoStepsBurst .running).steps[1]? = some step1 ∧
      (step1.commanded - 55).natAbs ≤ deliveredField twoSteps Field.tolerance ∧
      (twoStepsBurst .running).steps.length = 1 + 1 ∧ (turbineRec twoSteps 1).released = 60 ∧
      (twoStepsBurst .running).lockReached = false) ∧
    (let b := { twoStepsBurst .ending with lockReached := true }
     burstOf (burstWith b 60) 1 = some b ∧ b.steps.length = 1 + 1 ∧ b.row < twoSteps.ms.queues.length) ∧
    ((twoStepsBurst .running).steps.findIdx? (fun y => y.seq == 0#4) = some 0 ∧
      (twoStepsBurst .running).steps[0]? = some step0 ∧ ¬ (twoStepsBurst .running).steps.length = 0 + 1 ∧
      (step0.commanded - 45).natAbs ≤ deliveredField twoSteps Field.tolerance) ∧
    (burstOf (burstWith (twoStepsBurst .paused) 60) 1 = some (twoStepsBurst .paused) ∧
      (twoStepsBurst .paused).phase ≠ .running) ∧
    (burstOf (burstWith { burst1 with phase := .ending } 40) 1 = some { burst1 with phase := .ending } ∧
      burst1.steps.length = 0 + 1 ∧ burst1.steps.findIdx? (fun y => y.seq == 0#4) = some 0 ∧
      burst1.steps[0]? = some step0) ∧
    (wordsClean burstPart = true ∧ burstOf burstPart 1 = some burst1 ∧ burst1.phase ≠ .ending ∧
      (turbineRec burstPart 1).released ≠ (move 60 .burst).sp.target) := by decide

/-- One beyond Tolerance; a late confirmation of sequence 9 with a QUEUED move, at and off its target. -/
def latePart : Part :=
  { queuedPart with se := { queuedPart.se with
      turbines := [(1, { known with abandoned := [9#4] }), (2, known), (3, known)] } }

theorem witness_StepMismatchAndLateConfirmation :
    (wordsClean twoSteps = true ∧ burstOf twoSteps 1 = some (twoStepsBurst .running) ∧
      slot twoSteps 1 = some (move 60 .burst) ∧ (move 60 .burst).phase = .burst ∧
      (twoStepsBurst .running).steps.findIdx? (fun y => y.seq == 0#4) = some 0 ∧
      deliveredField twoSteps Field.tolerance < (step0.commanded - 46).natAbs ∧
      0 < twoSteps.ms.queues.length ∧ (turbineRec twoSteps 1).cond = .normal) ∧
    (burstOf latePart 1 = none ∧ 9#4 ∈ (turbineRec latePart 1).abandoned ∧
      8#4 ∉ (turbineRec latePart 1).abandoned ∧ slot latePart 1 = some (move 60 .queued)) ∧
    (3#4 ∉ [1#4, 2#4] ∧ [1#4, 2#4].Nodup ∧ [1#4, 2#4].length = 2) := by decide

/-- Turbine 1 is in burst `b`, with sequence 9 abandoned. -/
def lateBurst (b : Burst) : Part :=
  { burstWith b 40 with se := { (burstWith b 40).se with
      turbines := [(1, { known with released := 40, nextSeq := 2, abandoned := [9#4] }), (2, known), (3, known)] } }

/-- A step is outstanding, and none; the applied offset at the target 60 with the lock limit not reached and reached;
short of it in a RUNNING, a PAUSED and an ENDING burst; a move with a first fault already. -/
theorem witness_StepMismatchAndLateConfirmation_in_a_burst :
    (burstOf (lateBurst burst1) 1 = some burst1 ∧ (∀ x ∈ burst1.steps, x.seq ≠ 9#4) ∧
      8#4 ∉ (turbineRec (lateBurst burst1) 1).abandoned ∧ 9#4 ∈ (turbineRec (lateBurst burst1) 1).abandoned ∧
      slot (lateBurst burst1) 1 = some (move 60 .burst) ∧ (move 60 .burst).phase = .burst ∧
      (move 60 .burst).firstFault = none ∧ burst1.steps ≠ []) ∧
    ({ move 60 .burst with firstFault := some .mismatch } : Move).firstFault ≠ none ∧
    (∀ reached ∈ [false, true], ∀ ph ∈ [BurstPhase.running, .paused, .ending],
      let b := { burst1 with steps := [], lockReached := reached, phase := ph }
      burstOf (lateBurst b) 1 = some b ∧ b.steps = [] ∧ b.row < (lateBurst b).ms.queues.length ∧
      9#4 ∈ (turbineRec (lateBurst b) 1).abandoned ∧ slot (lateBurst b) 1 = some (move 60 .burst)) ∧
    (60 : Int) = (move 60 .burst).sp.target ∧ (50 : Int) ≠ (move 60 .burst).sp.target := by decide

/-- Turbine 1 seen and not passed through, in a burst; a SUSPECT and a NORMAL turbine without one. -/
theorem witness_YawStatusInABurst_stages :
    (wordsClean burstPart = true ∧ Machine.sequencing burstPart = true ∧
      bypassOf (wordAt burstPart (turbineWordB 1)).value = false ∧ (rowOf .se 1 burstPart).1 = some 0 ∧
      condOf burstPart 1 ≠ .unseen) ∧
    (burstOf part 1 = none ∧ condOf part 1 = .normal) ∧
    condOf { part with se := { part.se with turbines := [(1, { known with cond := .suspect })] } } 1 ≠ .normal ∧
    (YawStatus.moving ≠ .fault) := by decide

theorem witness_YawStatusInABurst :
    wordsClean burstPart = true ∧ burstOf burstPart 1 = some burst1 ∧ burst1.lock = false ∧
    burst1.lockReached = false ∧
    burstOf (burstWith { burst1 with lock := true, lockTimer := .running 9, phase := .paused } 40) 1 =
      some { burst1 with lock := true, lockTimer := .running 9, phase := .paused } ∧
    slot burstPart 1 = some (move 60 .burst) ∧ (turbineRec burstPart 1).cond = .normal ∧
    (let b := { burst1 with lock := true, gust := true, lockTimer := .running 9, phase := .paused }
     burstOf (burstWith b 40) 1 = some b ∧ b.lock = true ∧ ¬ (b.phase = .paused ∧ b.gust = false)) := by decide

/-- Row 0 is AFFIRMING: round 5 has sent turbine 1 its offset 0. -/
def round5 : Round :=
  { kind := .owed, number := 5, timer := .running 300, entries := [{ turbine := 1, sent := 0, status := .pending }] }

def roundPart : Part :=
  { queuedPart with
    rsq := { queuedPart.rsq with rows := [{ closedRow with state := .affirming }, closedRow] }
    rau := { queuedPart.rau with records := [{ realign with credit := 4, round := some round5 }, realign] } }

theorem witness_AffirmAnswers :
    wordsClean roundPart = true ∧ Machine.sequencing roundPart = true ∧ pendingAnswer roundPart 1 5 = some (0, 0) ∧
    pendingAnswer roundPart 1 4 = none ∧
    ((5 : Int) - 0).natAbs ≤ deliveredField roundPart Field.tolerance ∧
    ¬ ((6 : Int) - 0).natAbs ≤ deliveredField roundPart Field.tolerance ∧
    slot roundPart 1 = some (move 60 .queued) ∧
    realignAt roundPart 0 = some { realign with credit := 4, round := some round5 } := by decide

/-- Turbine 1 answers a round that turbine 2 has answered. -/
theorem witness_AffirmAnswers_two_entries :
    (let rd := { round5 with entries := round5.entries ++ [{ turbine := 2, sent := 0, status := .confirmed }] }
     let p := { roundPart with rau := { roundPart.rau with records := [{ realign with round := some rd }, realign] } }
     wordsClean p = true ∧ Machine.sequencing p = true ∧ pendingAnswer p 1 5 = some (0, 0) ∧
     pendingAnswer p 2 5 = none ∧ rd.entries.length = 2) := by decide

/-- A full and an empty answer list; a field list one byte short of each request's least, and turbine 0. -/
theorem witness_RequestsTurnedAwayAndReadRequests :
    isRequest (.status 1#16 2#16 []) = true ∧ 4 ≤ (fullAnswers part).ma.answers.length ∧
    part.ma.answers.length < 4 ∧ 15 < (16#8).toNat ∧ (0#8).toNat = 0 ∧
    ([] : List Byte).length < 1 ∧ [0#8, 0#8].length < 3 ∧ [0#8, 0#8, 0#8, 0#8, 0#8].length < 6 ∧
    3 < (byteAt [4#8, 0#8, 0#8, 0#8, 0#8, 1#8] 0).toNat ∧ [0#8, 0#8, 0#8, 0#8, 0#8, 0#8].length % 4 ≠ 1 ∧
    [0#8].length < 2 ∧ 1 < (byteAt [2#8, 0#8] 0).toNat ∧
    (byteAt [0#8] 0).toNat < 1 ∧ 192 < (byteAt [193#8] 0).toNat ∧ (byteAt [192#8] 0).toNat ≤ 192 ∧
    wordsClean part = true := by decide

/-- Row 0 masked and unlatched, then latched. -/
theorem witness_Snapshots :
    part.ma.answers.length < 4 ∧ 3 ≤ [0#8, 0#8, 1#8].length ∧ idlePart.ma.mode = .through ∧
    part.ma.mode ≠ .through ∧ (maskOf [0#8, 0#8, 1#8]).getLsbD 0 = true ∧
    (maskOf [0#8, 0#8, 1#8]).getLsbD 1 = false ∧ rowAt part 0 = some closedRow ∧
    realignAt part 0 = some realign ∧ latchAt part 0 = none ∧
    (latchAt (run (.snapshot 1#16 2#16 [0#8, 0#8, 1#8]) part) 0).isSome = true := by decide

/-- LOAD-BEGIN of `count` words of a table from its first. -/
def beginFields (table page : Byte) (count : BitVec 16) : List Byte := [table, page, 0#8, 0#8] ++ be16 count

/-- An OPEN context. -/
def context (t : Table) : LoadCtx :=
  { table := t, first := 0, count := 2, received := 1, expectedSeq := 1, crc := 0x1D0F#16, idle := .running 50,
    ended := none, mapClamped := 1 }

def loading (c : LoadCtx) (p : Part) : Part := { p with ma := { p.ma with load := some c } }

theorem witness_LoadBegin :
    6 ≤ (beginFields 0#8 0#8 24#16).length ∧ loadTable 0#8 0#8 = some .config ∧
    loadTable 2#8 8#8 = some (.page 8) ∧ loadTable 3#8 0#8 = some .sectorMap ∧
    (openLoad (loading (context .turbine) idlePart)).isSome = true ∧ (openLoad idlePart).isSome = false ∧
    (7 < 8 ∧ tableSize .config < 0 + 25 ∧ ¬ tableSize .config < 0 + 24) ∧
    (part.ma.mode = .engaged ∧ commanded.ma.mode = .hold ∧
      { commanded with se := burstPart.se }.se.bursts ≠ [] ∧ commanded.se.bursts = []) ∧
    (loadTable 2#8 0#8 = some (.page 0) ∧ pageValidity part 0 = .active) ∧
    (switching 1 500).rsq.switch.map (·.target) = some 1 ∧
    (idlePart.ma.mode = .through ∧ wordsClean idlePart = true) := by decide

/-- Page 1, VALID, can be loaded while the part is ENGAGED in sector 0 on page 0, and the sector map too. -/
theorem witness_LoadBegin_accepted :
    (let p := bothPages { part with tm := { part.tm with pages := [(0, .active), (1, .valid)] } }
     p.ma.answers.length < 4 ∧ (openLoad p).isSome = false ∧ loadTable 2#8 1#8 = some (.page 1) ∧
     ¬ tableSize (.page 1) < 0 + 193 ∧ pageValidity p 1 = .valid ∧ p.rsq.switch = none ∧ wordsClean p = true ∧
     Machine.sequencing p = true ∧ p.wru.activeSector.isSome = true) ∧
    (loadTable 3#8 0#8 = some .sectorMap ∧ ∀ n, Table.sectorMap ≠ .page n) :=
  ⟨by decide, by decide, fun _ h => by cases h⟩

/-- No context; a wrong sequence; one word too many; and one word that fits. -/
theorem witness_LoadData :
    idlePart.ma.answers.length < 4 ∧ 5 ≤ [1#8, 0#8, 0#8, 0#8, 9#8].length ∧
    [1#8, 0#8, 0#8, 0#8, 9#8].length % 4 = 1 ∧ wordsClean idlePart = true ∧ openLoad idlePart = none ∧
    openLoad (loading (context .turbine) idlePart) = some (context .turbine) ∧
    (context .turbine).table ≠ .sectorMap ∧ byteAt [0#8, 0#8, 0#8, 0#8, 9#8] 0 ≠ (context .turbine).expectedSeq ∧
    byteAt [1#8, 0#8, 0#8, 0#8, 9#8] 0 = (context .turbine).expectedSeq ∧
    (context .turbine).count < (context .turbine).received + 2 ∧
    (context .turbine).received + 1 ≤ (context .turbine).count ∧
    (commanded.ma.mode = .hold ∧ commanded.releaseDue = none) := by decide

/-- Three words of a CONFIG load in HOLD, from word 1 on, with an opening in the window. -/
theorem witness_LoadData_of_the_config_block :
    (let c := { context .config with count := 4 }
     let p := loading c { commanded with rsq := { commanded.rsq with window := [900] } }
     openLoad p = some c ∧ p.ma.answers.length < 4 ∧ wordsClean p = true ∧ c.table = .config ∧ c.table ≠ .sectorMap ∧
     (1#8 :: List.replicate 12 9#8).length = 13 ∧ (13 - 1) / 4 = 3 ∧ 13 ≤ 193 ∧ 13 % 4 = 1 ∧
     byteAt (1#8 :: List.replicate 12 9#8) 0 = c.expectedSeq ∧ c.received + 3 ≤ c.count ∧
     (c.first + c.received ≤ 2 ∧ 2 < c.first + c.received + 3) ∧
     (c.first + c.received ≤ 3 ∧ 3 < c.first + c.received + 3) ∧ ¬ 2 < c.first + c.received + 1) := by decide

/-- A word of the sector map in ENGAGED: sectors 4 to 7 are stored, of sectors 0 to 3 sector 0 is held; a load in
THROUGH, where none is; an entry of 9 is stored as NONE. -/
theorem witness_LoadData_of_the_sector_map :
    (let p := loading (context .sectorMap) part
     openLoad p = some (context .sectorMap) ∧ p.ma.answers.length < 4 ∧ wordsClean p = true ∧
     Machine.sequencing p = true ∧ p.wru.activeSector = some 0 ∧ 4 * (0 + 1) + 0 ≠ 0 ∧
     byteAt [1#8, 9#8, 7#8, 8#8, 255#8] 0 = (context .sectorMap).expectedSeq) ∧
    (let c := { context .sectorMap with received := 0, expectedSeq := 0 }
     openLoad (loading c part) = some c ∧ c.received + 1 ≤ c.count ∧ 4 * (c.first + c.received + 0) + 0 = 0) ∧
    (openLoad (loading (context .sectorMap) idlePart) = some (context .sectorMap) ∧
      Machine.sequencing idlePart = false) ∧ 7 < (9#8).toNat ∧ ¬ (7#8).toNat > 7 := by decide

theorem witness_LoadsEnd :
    idlePart.ma.load = none ∧ openLoad idlePart = none ∧ 2 ≤ [0x1D#8, 0x0F#8].length ∧
    (let c := { context .config with ended := some .crc }
     (loading c idlePart).ma.load = some c ∧ c.ended = some .crc) ∧
    (openLoad (loading (context .config) idlePart) = some (context .config) ∧
      (context .config).received < (context .config).count) ∧
    (let c := { context .sectorMap with received := 2 }
     openLoad (loading c idlePart) = some c ∧ c.count ≤ c.received ∧ pairAt [0x1D#8, 0x0E#8] 0 ≠ c.crc ∧
     pairAt [0x1D#8, 0x0F#8] 0 = c.crc ∧ c.table = .sectorMap) ∧
    { context .config with idle := .running 0 }.idle.isDue = true ∧
    (openLoad (loading (context .config) commanded) = some (context .config) ∧ commanded.ma.mode = .hold ∧
      commanded.releaseDue = none ∧ (context .turbine).table = .turbine ∧
      ¬ ((context .sectorMap).table = .config ∨ (context .sectorMap).table = .turbine)) := by decide

/-- LOAD-ABORT in its normal form, with no field byte: without an OPEN context, and with one of each table. -/
theorem witness_LoadsEnd_abort :
    (¬ 2 ≤ ([] : List Byte).length ∧ idlePart.ma.answers.length < 4 ∧ openLoad idlePart = none ∧
      (run (.loadAbort 1#16 2#16 []) idlePart).ma = answered (buildAnswer 1#16 2#16 2 12 []) idlePart.ma) ∧
    ∀ t ∈ [Table.config, .turbine, .page 1, .sectorMap], let p := loading (context t) idlePart
      p.ma.answers.length < 4 ∧ wordsClean p = true ∧ openLoad p = some (context t) ∧
      (run (.loadAbort 1#16 2#16 []) p).ma.lastLoad = some (t, .failed .aborted) := by decide

/-- The idle time runs out with four answers waiting. -/
theorem witness_LoadsEnd_idle :
    (let c := { context .config with idle := .running 0 }
     let p := fullAnswers (loading c commanded)
     wordsClean p = true ∧ openLoad p = some c ∧ c.idle.isDue = true ∧ p.ma.answers.length = 4 ∧
     p.ma.mode = .hold) := by decide

/-- RefTurbine1 names turbine 1, and no RefTurbine field names one; a realign timer runs. -/
def configLoaded : Part :=
  let p := loading { context .config with received := 2 } commanded
  { p with tm := { p.tm with config := .loading, turbine := .invalid .neverLoaded } }

theorem witness_ConfigLoadsAreValidated :
    configLoaded.ma.answers.length < 4 ∧ wordsClean configLoaded = true ∧
    openLoad configLoaded = some { context .config with received := 2 } ∧
    (context .config).count ≤ 2 ∧ pairAt [0x1D#8, 0x0F#8] 0 = (context .config).crc ∧
    (configLoaded.ma.mode = .hold ∧ configLoaded.releaseDue = none) ∧ configLoaded.tm.turbine ≠ .valid ∧
    (([10, 11, 12, 13].map fun f => clampField f (wordAt configLoaded f).value.toNat).filter (· != 0)) = [] ∧
    (let p := withWord 10 (freshWord 1#32) configLoaded
     wordsClean p = true ∧
     ([10, 11, 12, 13].map fun f => clampField f (wordAt p f).value.toNat).filter (· != 0) = [1] ∧
     turbinePresent p 1 = true ∧ turbinePresent p 4 = false) ∧
    { configLoaded.tm with turbine := .valid }.turbine = .valid ∧
    realignAt configLoaded 0 = some realign ∧ realign.timer.isRunning = true := by decide +kernel

/-- A TURBINE load of three turbines, of which turbine 1 is fenced, with pages ACTIVE and CHECK-FAILED. -/
def turbinesLoaded : Part :=
  let p := bothPages (loading { context .turbine with received := 2 } commanded)
  { p with
    se := { p.se with turbines := [(1, { known with cond := .fenced }), (2, known), (3, known)] }
    tm := { p.tm with turbine := .loading, fences := [(1, true)], pages := [(0, .active), (1, .invalid .checkFailed)] } }

theorem witness_ConfigLoadsAreValidated_turbines :
    turbinesLoaded.ma.answers.length < 4 ∧ wordsClean turbinesLoaded = true ∧
    openLoad turbinesLoaded = some { context .turbine with received := 2 } ∧
    (∀ t, t < 193 → 1 ≤ t → (turbinePresent turbinesLoaded t = true ↔ t = 1 ∨ t = 2 ∨ t = 3)) ∧
    [1, 2, 3].map (fun t => ringOf (wordAt turbinesLoaded (turbineWordA t)).value) = [0x1001#16, 0x1002#16, 0x1003#16] ∧
    [10, 11, 12, 13].map (deliveredField turbinesLoaded) = [0, 0, 0, 0] ∧
    (fenceMark turbinesLoaded 1 = true ∧ condOf turbinesLoaded 1 = .fenced) ∧
    pageValidity turbinesLoaded 0 = .active ∧ pageValidity turbinesLoaded 1 = .invalid .checkFailed ∧
    turbinePresent (withWord 28 (freshWord 0x80007F00#32) turbinesLoaded) 3 = true ∧
    (ringOf (wordAt (withWord 28 (freshWord 0x80007F00#32) turbinesLoaded) (turbineWordA 3)).value).toNat = 0x7F00 ∧
    turbinesLoaded.ma.mode ≠ .through ∧ turbinesLoaded.releaseDue = none := by decide +kernel

/-- Both pages pass R13 and R14; with turbine 3 taken out of row 1 they pass R13 alone. -/
theorem witness_ConfigLoadsAreValidated_sound_pages :
    structurallySound turbinesLoaded 0 ∧ structurallySound turbinesLoaded 1 ∧ membershipAgrees turbinesLoaded 1 ∧
    ¬ membershipAgrees (withWord 28 (freshWord 0#32) turbinesLoaded) 1 ∧
    ¬ structurallySound (withWord 601 (freshWord 25#32) turbinesLoaded) 1 := by
  have agree : ∀ t, t < 193 → 1 ≤ t → (t ∈ pageMembers turbinesLoaded 1 ↔ turbinePresent turbinesLoaded t = true ∧
      bypassOf (wordAt turbinesLoaded (turbineWordB t)).value = false) := by decide +kernel
  refine ⟨by unfold structurallySound; decide +kernel, by unfold structurallySound; decide +kernel,
    fun t h1 h2 => agree t (by omega) h1, fun h => ?_, fun h => ?_⟩
  · exact absurd ((h 3 (by decide) (by decide)).1 (by decide +kernel)).1 (by decide +kernel)
  · exact absurd h.1.2 (by decide +kernel)

/-- A PAGE load of page 1 that the clamps change nothing of, and one whose grace is below 10. -/
def pageLoaded : Part :=
  let p := bothPages (loading { context (.page 1) with received := 2 } part)
  { p with tm := { p.tm with pages := [(0, .active), (1, .loading)] } }

theorem witness_ConfigLoadsAreValidated_pages :
    pageLoaded.ma.answers.length < 4 ∧ wordsClean pageLoaded = true ∧
    openLoad pageLoaded = some { context (.page 1) with received := 2 } ∧ pageLoaded.tm.turbine = .valid ∧
    ((pageClamps pageLoaded 1).map fun e => e.2.2).sum = 0 ∧
    (let p := withWord 609 (freshWord 0x00090032#32) pageLoaded
     ((pageClamps p 1).map fun e => e.2.2).sum = 1 ∧ (8, 0x000A0032#32, 1) ∈ pageClamps p 1) := by decide +kernel

/-- Word 2, and word 3, of a CONFIG load outside its range. -/
theorem witness_ConfigLoadsAreValidated_window :
    (∀ a ∈ [2, 3], let p := withWord a (freshWord 0#32) configLoaded
      wordsClean p = true ∧ openLoad p = some { context .config with received := 2 } ∧
      clampField a (wordAt p a).value.toNat ≠ (wordAt p a).value.toNat) ∧
    (∀ a ∈ [2, 3], clampField a (wordAt configLoaded a).value.toNat = (wordAt configLoaded a).value.toNat) := by
  decide +kernel

/-- A damaged word of the block, and word 3 with word 2 out of range. -/
theorem witness_ConfigLoadsAreValidated_integrity :
    (let p := withWord 0 damagedWord configLoaded
     p.ma.answers.length < 4 ∧ openLoad p = some { context .config with received := 2 } ∧
     checkWord (wordAt p 0) = .damaged ∧ (context .config).table = .config ∧ p.tm.config = .loading ∧ 0 < 24 ∧
     p.tm.captureFrozen = false ∧ p.releaseDue = none ∧ p.ma.mode = .hold) ∧
    (let p := withWord 3 damagedWord (withWord 2 (freshWord 0#32) configLoaded)
     openLoad p = some { context .config with received := 2 } ∧ checkWord (wordAt p 3) = .damaged ∧
     p.tm.config = .loading ∧ clampField 2 (wordAt p 2).value.toNat ≠ (wordAt p 2).value.toNat) := by decide +kernel

/-- Word A of turbine 1, which is marked, and word B of turbine 2, which is not. -/
theorem witness_ConfigLoadsAreValidated_integrity_turbines :
    ∀ a ∈ [24, 27], let p := withWord a damagedWord turbinesLoaded
      p.ma.answers.length < 4 ∧ openLoad p = some { context .turbine with received := 2 } ∧
      checkWord (wordAt p a) = .damaged ∧ p.tm.turbine = .loading ∧
      (24 = turbineWordA 1 ∧ fenceMark p 1 = true) ∧
      (27 = turbineWordB 2 ∧ turbinePresent p 2 = true ∧ fenceMark p 2 = false) ∧ p.ma.mode ≠ .through := by
  decide +kernel

/-- Of page 1: its row count, of row 1 the header, the first member word, the feeder word and the timing word. -/
theorem witness_ConfigLoadsAreValidated_integrity_pages :
    ∀ w ∈ [0, rowWord 1 0, rowWord 1 1, rowWord 1 5, rowWord 1 7],
      let p := withWord (pageWordAddr 1 w) damagedWord pageLoaded
      p.ma.answers.length < 4 ∧ openLoad p = some { context (.page 1) with received := 2 } ∧
      checkWord (wordAt p (pageWordAddr 1 w)) = .damaged ∧ pageValidity p 1 = .loading ∧
      p.rsq.activePage = some 0 ∧
      (w ≠ 0 → storedRowCount p 1 = 2 ∧ (w ≠ rowWord 1 0 → storedFeederCount p 1 1 = 1 ∧
        ∀ r, r < 2 → 1 ≤ storedMemberCount p 1 r ∧ storedMemberCount p 1 r ≤ 16 ∧
          storedFeederCount p 1 r ≤ 2)) := by decide +kernel

/-- Every other word of these is clean. -/
theorem witness_ConfigLoadsAreValidated_other_words :
    (∀ b, b ≠ 0 → checkWord (wordAt (withWord 0 damagedWord configLoaded) b) =
      .clean (wordAt (withWord 0 damagedWord configLoaded) b).value) ∧
    (∀ a b, b ≠ a → checkWord (wordAt (withWord a damagedWord turbinesLoaded) b) =
      .clean (wordAt (withWord a damagedWord turbinesLoaded) b).value) ∧
    (∀ a b, b ≠ a → checkWord (wordAt (withWord a damagedWord pageLoaded) b) =
      .clean (wordAt (withWord a damagedWord pageLoaded) b).value) ∧
    (∀ b, b ≠ 3 → checkWord (wordAt (withWord 3 damagedWord (withWord 2 (freshWord 0#32) configLoaded)) b) =
      .clean (wordAt (withWord 3 damagedWord (withWord 2 (freshWord 0#32) configLoaded)) b).value) :=
  ⟨fun _ => withWord_other _ (by decide), fun _ _ => withWord_other _ (by decide),
    fun _ _ => withWord_other _ (by decide), fun _ => withWord_other _ (by decide)⟩

theorem witness_Engage :
    idlePart.ma.answers.length < 4 ∧ part.ma.mode ≠ .through ∧ idlePart.ma.mode = .through ∧
    State.reset.part.tm.config ≠ .valid ∧
    (let p := { idlePart with tm := { idlePart.tm with turbine := .loading } }
     p.tm.config = .valid ∧ p.tm.turbine ≠ .valid) ∧
    windFresh { idlePart with wru := { idlePart.wru with freshness := .stopped } } = false ∧
    (idlePart.tm.config = .valid ∧ idlePart.tm.turbine = .valid ∧ windFresh idlePart = true ∧
      wordsClean idlePart = true ∧ idlePart.wru.activeSector = some 0 ∧
      entryPage (wordByte (wordAt idlePart (1952 + 0 / 4)).value (0 % 4)) = some 0 ∧
      pageValidity idlePart 0 = .valid ∧ idlePart.canonical = true ∧ idlePart.ms.slots = []) ∧
    { idlePart with wru := { idlePart.wru with activeSector := none } }.wru.activeSector = none := by decide

/-- Turbine 1's move is the only one. -/
theorem burstPart_slots : ∀ t m, slot burstPart t = some m → t = 1 ∧ m = move 60 .burst := fun t m h => by
  by_cases ht : t = 1
  · subst ht; exact ⟨rfl, (Option.some.inj h).symm⟩
  · simp [slot, burstPart, burstWith, Store.get, ht] at h

theorem witness_Disengage_moves :
    burstPart.ms.forward.length + burstPart.ms.slots.length ≤ 192 ∧
    (∀ t u m n, slot burstPart t = some m → slot burstPart u = some n → m.sp.dst = n.sp.dst → t = u) ∧
    slot burstPart 1 = some (move 60 .burst) ∧ burstOf burstPart 1 = some burst1 ∧ burstOf burstPart 2 = none ∧
    (let e : FwdEntry := ⟨{ setpoint 60 with dst := 0x1009#16 }, false⟩
     let p := { burstPart with ms := { burstPart.ms with forward := [e] } }
     e ∈ p.ms.forward ∧ slot p 1 = some (move 60 .burst) ∧ (move 60 .burst).sp.dst ≠ e.sp.dst) ∧
    (wordsClean burstPart = true ∧ burstPart.tm.config = .valid ∧ burstPart.tm.pendingEntry = none ∧
      smoothedDirection burstPart.wru = some 0 ∧ burstPart.wru.activeSector = some 0) ∧
    (let w := { burstPart.wru with dirAcc := 3600 }
     smoothedDirection w = some 225 ∧ w.activeSector ≠ some (225 / 225)) ∧
    ({ burstPart.tm with pendingEntry := some (5, 3#8) } : Tm).pendingEntry = some (5, 3#8) := by
  refine ⟨by decide, fun t u m n h k _ => ?_, by decide⟩
  rw [(burstPart_slots t m h).1, (burstPart_slots u n k).1]

theorem witness_Disengage :
    burstPart.ma.answers.length < 4 ∧ idlePart.ma.mode = .through ∧ burstPart.ma.mode ≠ .through ∧
    burstPart.canonical = true ∧ burstPart.rsq.activePage = some 0 ∧ pageValidity burstPart 0 = .active ∧
    { burstPart with tm := { burstPart.tm with config := .invalid .integrity } }.tm.config ≠ .valid ∧
    burstPart.wru.activeSector ≠ none := by decide

theorem witness_Hold :
    (part.ma.mode = .engaged ∧ ({ part.ma with silence := .running 0 } : Ma).silence.isDue = true) ∧
    part.ma.answers.length < 4 ∧ idlePart.ma.mode = .through ∧ silenced.ma.mode = .hold ∧
    wordsClean burstPart = true ∧ burstPart.rsq.activePage ≠ none ∧ burstPart.ma.mode = .engaged ∧
    rowIs (enterHold .command burstPart) 0 .draining = true := by decide

theorem witness_Release :
    idlePart.ma.mode = .through ∧ part.ma.mode = .engaged ∧
    ({ commanded.ma with exitDeferred := true } : Ma).exitDeferred = true ∧
    (commanded.ma.mode = .hold ∧ commanded.ma.exitDeferred = false ∧ loadHoldsMode commanded = false ∧
      wordsClean commanded = true ∧ 1 < commanded.rsq.rows.length ∧ rowIs commanded 1 .fenced = false) ∧
    loadHoldsMode configLoaded = true := by decide

def suspectPart : Part :=
  { part with se := { part.se with turbines := [(1, { known with cond := .suspect }), (2, known), (3, known)] } }

theorem witness_Clear :
    suspectPart.ma.answers.length < 4 ∧ 2 ≤ [1#8, 1#8].length ∧ byteAt [0#8, 0#8] 0 = 0#8 ∧
    byteAt [1#8, 1#8] 0 = 1#8 ∧ (byteAt [1#8, 0#8] 1).toNat < 1 ∧ 192 < (byteAt [1#8, 193#8] 1).toNat ∧
    condOf suspectPart 2 ≠ .suspect ∧ condOf suspectPart 1 = .suspect := by decide

theorem witness_WarmReset :
    burstPart.ma.answers.length < 4 ∧ wordsClean burstPart = true ∧ burstPart.ma.mode ≠ .through ∧
    burstPart.rsq.activePage = some 0 ∧ idlePart.ma.mode = .through ∧
    openLoad (loading (context .turbine) idlePart) = some (context .turbine) ∧
    burstPart.ti.f.sending ≠ some .insertion ∧ (twoFrames (some .insertion)).ti.c.sending = some .insertion := by decide

/-- A load of each table is OPEN, of page 1 among them; the pending entry of sector 0 lies outside words 1954 and 1955 of
a SECTOR-MAP load. -/
theorem witness_WarmReset_of_the_tables :
    (∀ t ∈ [Table.config, .turbine, .page 1, .sectorMap], (openLoad (loading (context t) part)).map (·.table) = some t) ∧
    (∀ t ∈ [Table.config, .turbine, .page 1, .sectorMap], wordsClean (loading (context t) part) = true ∧
      (loading (context t) part).ma.answers.length < 4) ∧ part.rsq.activePage ≠ some 1 ∧
    (let c := { context .sectorMap with first := 2 }
     let p := { loading c part with tm := { part.tm with pendingEntry := some (0, 3#8) } }
     openLoad p = some c ∧ c.table = .sectorMap ∧ (1952 + c.first ≤ 1955 ∧ 1955 < 1952 + c.first + c.count) ∧
     p.tm.pendingEntry = some (0, 3#8) ∧ ¬ 1952 + c.first ≤ 1952 + 0 / 4) := by decide

/-- A waiting forward entry and a waiting answer, with the last place free and with none. -/
def crowded (f c : Nat) (p : Part) : Part :=
  { p with ti := { p.ti with f := { p.ti.f with insertion := List.replicate f (qframe .step) }
                             c := { p.ti.c with insertion := List.replicate c (qframe .alert) } } }

theorem witness_Handovers :
    waiting.ms.forward = ⟨setpoint 60, false⟩ :: [] ∧ (crowded 31 7 waiting).ti.f.insertion.length < 32 ∧
    32 ≤ (crowded 32 8 waiting).ti.f.insertion.length ∧
    (let p := { part with ma := { part.ma with answers := [answer] } }
     p.ma.answers = answer :: [] ∧ (crowded 0 7 p).ti.c.insertion.length + answer.parts.length ≤ 8 ∧
     8 < (crowded 0 8 p).ti.c.insertion.length + answer.parts.length ∧ 0 < answer.parts.length) ∧
    (twoFrames none).ti.c.sending = none ∧
    (twoFrames none).ti.c.insertion.length + (List.replicate 6 [0#8]).length ≤ 8 ∧
    ({ answer with parts := [] } : Answer).parts = [] := by decide

theorem witness_StepRelease :
    waitingBursts part = [] ∧ wordsClean burstPart = true ∧ waitingBursts burstPart = 1 :: [] ∧
    burstOf burstPart 1 = some burst1 ∧ slot burstPart 1 = some (move 60 .burst) ∧
    waitingBursts (burstWith { burst1 with steps := [] } 0) = 1 :: [] ∧ 2 ∉ waitingBursts burstPart := by decide

/-- Turbines 1 and 2 both wait. -/
theorem witness_StepRelease_two :
    (let p := { burstPart with
       ms := { burstPart.ms with slots := [(1, some (move 60 .burst)), (2, some { move 60 .burst with arrival := 2 })] }
       se := { burstPart.se with bursts := [{ burst1 with turbine := 2, steps := [] }, burst1] } }
     wordsClean p = true ∧ waitingBursts p = 1 :: [2] ∧ 2 ∈ waitingBursts p) := by decide

def lockedPart : Part :=
  { openPart with se := { openPart.se with
      turbines := [(1, { known with yaw := some .locked }), (2, known), (3, known)] } }

theorem witness_BurstStart :
    (wordsClean openPart = true ∧ waitingBursts openPart = [] ∧ openPart.rsq.activePage = some 0 ∧
      rowAt openPart 0 = some openRow0 ∧ burstMayStart openPart 0 0 = true ∧ headStartable openPart 0 = some 1 ∧
      slot openPart 1 = some (move 60 .queued) ∧ burstOf openPart 1 = none ∧
      (move 60 .queued).sp.target ≠ (turbineRec openPart 1).released ∧
      (turbineRec openPart 1).yaw ≠ some .locked) ∧
    (burstMayStart lockedPart 0 0 = true ∧ headStartable lockedPart 0 = some 1 ∧
      (turbineRec lockedPart 1).yaw = some .locked) := by decide

/-- Turbine 1 already stands at its target; no burst may start; at most 384 entries wait. -/
theorem witness_BurstStart_at_the_target :
    (let p := { openPart with se := { openPart.se with
       turbines := [(1, { known with released := 60 }), (2, known), (3, known)] } }
     wordsClean p = true ∧ waitingBursts p = [] ∧ burstMayStart p 0 0 = true ∧ headStartable p 0 = some 1 ∧
     slot p 1 = some (move 60 .queued) ∧ (move 60 .queued).sp.target = (turbineRec p 1).released) ∧
    (openPart.ms.queues.map List.length).sum ≤ 384 ∧ part.rsq.activePage = some 0 := by decide

theorem witness_BurstStart_none_left : ∀ r, burstMayStart part 0 r = false := fun r => by
  match r with
  | 0 => decide
  | 1 => decide
  | n + 2 => rfl

/-- A record has freed, and none has; a round that is not answered, in ENGAGED. -/
theorem witness_BurstStart_within_an_event :
    part.startsDue = false ∧ (settleRows part).startsDue = false ∧
    ({ openPart with startsDue := true } : Part).startsDue = true ∧
    (settleRows { openPart with startsDue := true }).startsDue = true ∧
    Machine.sequencing roundPart = true ∧ roundPart.rau.records.any roundAnswered = false := by decide

/-- A round owed at credit 4 on row 0, and a pull-in round on row 1. -/
def owedPart : Part :=
  { part with rau := { part.rau with records := [{ realign with credit := 4 }, { realign with credit := -7 }] } }

theorem witness_RoundStart :
    (wordsClean owedPart = true ∧ Machine.sequencing owedPart = true ∧ 0 < owedPart.rsq.rows.length ∧
      roundDue owedPart 0 = some .owed ∧ rowIs owedPart 0 .closed = true ∧ owedPart.rsq.switch = none ∧
      (rowMembers .rau 0 owedPart).1 = some [1, 2] ∧
      ascending ([1, 2].filter (affirmable owedPart)) ≠ [] ∧
      (crowded 30 0 owedPart).ti.f.insertion.length +
        (ascending ([1, 2].filter (affirmable owedPart))).length ≤ 32) ∧
    (let p := { owedPart with rau := { part.rau with records := [realign, { realign with credit := -7 }] } }
     roundDue p 0 = none ∧ roundDue p 1 = some .pullIn) ∧
    (let p := withWord 26 (freshWord 0x00001002#32) { owedPart with tm := { owedPart.tm with turbine := .loading } }
     wordsClean p = true ∧ ascending ([1, 2].filter (affirmable p)) = [1, 2] ∧
     [1, 2].filter (turbinePresent p) = [1]) := by decide

/-- Row 0 waits for two places with one free, and holds back row 1. -/
theorem witness_RoundStart_held_back :
    (let p := crowded 31 0 owedPart
     let q := startRounds 24 p
     wordsClean p = true ∧ Machine.sequencing p = true ∧ p.rsq.rows.length ≤ 24 ∧
     (∀ r, r < 2 → (roundDue q r).isSome = true ∧ rowIs q r .closed = true) ∧ q.rsq.switch = none ∧
     (rowMembers .rau 0 q).1 = some [1, 2] ∧ ascending ([1, 2].filter (affirmable q)) = [1, 2] ∧
     (rowMembers .rau 1 q).1 = some [3] ∧ ascending ([3].filter (affirmable q)) = [3]) := by decide +kernel

theorem witness_Openings :
    (wordsClean queuedPart = true ∧ queuedPart.rsq.activePage = some 0 ∧ rowAt queuedPart 0 = some closedRow ∧
      (eligible 0 queuedPart).1 = true) ∧
    closedRow.state = .closed ∧ ({ part with now := 0 } : Part).now = closedRow.holdUntil ∧
    (2200 : Count) = 1000 + BitVec.ofNat 32 (deliveredField part Field.rowCycle) := by decide

theorem witness_TimesAgeOut :
    rowAt openPart 0 = some openRow0 ∧ openRow0.lastOpening = some 1000 ∧ closedRow.lastOpening = none ∧
    openPart.rsq.window = 1000 :: [] ∧
    (let p := { openPart with now := 7000 }
     wordsClean p = true ∧ deliveredField p Field.windowLength ≤ (p.now - 1000).toNat) := by decide

theorem witness_WindExpiries :
    stalePart.wru.freshness.isDue = true ∧ ({ part.wru with gust := .running 0 } : Wru).gust.isDue = true ∧
    ({ part.wru with excursion := .running 0 } : Wru).excursion.isDue = true ∧ part.wru.seeded = true ∧
    wordsClean part = true ∧ part.tm.pendingEntry = none ∧
    ({ part.tm with pendingEntry := some (0, 3#8) } : Tm).pendingEntry = some (0, 3#8) := by decide

def settlingRow (moved : Bool) : RowRec :=
  { closedRow with state := .settling, settle := .running 0, moved := moved }

/-- Row 0 OPEN with a burst, OPEN with nothing to do, and DRAINING; the page's settle value is 50, and 0. -/
theorem witness_GraceAndSettleExpiries_rows :
    (let idle := { burstPart with se := { burstPart.se with bursts := [] } }
     wordsClean burstPart = true ∧ burstPart.rsq.activePage = some 0 ∧ rowAt burstPart 0 = some openRow0 ∧
     burstCount burstPart 0 ≠ 0 ∧ rowAt idle 0 = some openRow0 ∧ burstCount idle 0 = 0 ∧ startableCount idle 0 = 0 ∧
     openRow0.state = .opened ∧ settleOf (wordAt idle (pageWordAddr 0 (rowWord 0 7))).value = 50) ∧
    (let p := withWord (pageWordAddr 0 (rowWord 0 7)) (freshWord 0x012C0000#32)
       { part with rsq := { part.rsq with rows := [{ closedRow with state := .draining, moved := true }, closedRow] } }
     wordsClean p = true ∧ rowIs p 0 .draining = true ∧ burstCount p 0 = 0 ∧
     settleOf (wordAt p (pageWordAddr 0 (rowWord 0 7))).value = 0) := by decide

/-- A burst without a step that stands at its target, one whose lock limit was reached, and one short of it. -/
theorem witness_GraceAndSettleExpiries_verdicts :
    (let b := { burst1 with steps := [] }
     (turbineRec (burstWith b 60) 1).released = (move 60 .burst).sp.target ∧ b.lockReached = false ∧
     (turbineRec (burstWith b 0) 1).released ≠ (move 60 .burst).sp.target ∧
     { b with lockReached := true }.lockReached = true ∧ (move 60 .burst).phase = .burst ∧
     0 < (burstWith b 0).ms.queues.length ∧ ∀ c ∈ (burstWith b 0).se.bursts, c.turbine = 1 → c = b) := by decide

/-- An OPEN row whose grace is over, with a burst that has a step and one that has none; a SETTLING row. -/
theorem witness_GraceAndSettleExpiries :
    (let row := { openRow0 with grace := .running 0 }
     row.state = .opened ∧ row.grace.isDue = true) ∧
    (burstOf burstPart 1 = some burst1 ∧ burst1.row = 0 ∧ burst1.steps ≠ [] ∧
      ∀ c ∈ burstPart.se.bursts, c.turbine = 1 → c = burst1) ∧
    (let b := { burst1 with steps := [] }
     burstOf (burstWith b 0) 1 = some b ∧ slot (burstWith b 0) 1 = some (move 60 .burst)) ∧
    (let p := { part with rsq := { part.rsq with rows := [settlingRow true, closedRow] } }
     rowAt p 0 = some (settlingRow true) ∧ (settlingRow true).settle.isDue = true ∧ wordsClean p = true ∧
     rowAt p 1 = some closedRow ∧ (rowFeeders .rsq 1 p).1 = some [(0, 840)] ∧
     [(0, 840)].find? (fun x => x.1 == 0) = some (0, 840)) := by decide

theorem witness_BurstTimersExpire :
    burstOf burstPart 1 = some burst1 ∧ slot burstPart 1 = some (move 60 .burst) ∧
    (move 60 .burst).phase = .burst ∧ (turbineRec burstPart 1).cond = .normal ∧
    0 < burstPart.ms.queues.length ∧
    stepDue { burst1 with steps := [{ step0 with timer := .running 0 }] } = true ∧
    ({ burst1 with lockTimer := .running 0 } : Burst).lockTimer.isDue = true ∧
    (∀ steps ∈ [[], [step0]],
      let b : Burst := { burst1 with steps := steps, lock := true, lockTimer := .running 0, phase := .paused }
      burstOf (burstWith b 40) 1 = some b ∧ slot (burstWith b 40) 1 = some (move 60 .burst) ∧
      b.row < (burstWith b 40).ms.queues.length) ∧
    (move 60 .burst).firstFault = none ∧
    { move 60 .burst with firstFault := some .stepTimeout }.firstFault ≠ none := by decide

/-- A realign timer at zero below and at the limit, in ENGAGED and HOLD; a round with one entry PENDING. -/
theorem witness_RealignTimersExpire :
    wordsClean part = true ∧ realignAt part 0 = some realign ∧
    ({ realign with timer := .running 0 } : RealignRec).timer.isDue = true ∧ realign.credit ≤ 8 ∧
    realign.credit ≠ 8 ∧ ({ realign with credit := 8 } : RealignRec).credit = 8 ∧
    ({ realign with holdDues := 8 } : RealignRec).holdDues = 8 ∧ part.ma.mode ≠ .hold ∧
    commanded.ma.mode = .hold ∧ ({ realign with credit := 7 } : RealignRec).credit = 7 ∧
    (realignAt roundPart 0).bind (·.round) = some round5 ∧
    ({ round5 with timer := .running 0 } : Round).timer.isDue = true ∧ pendingTurbines round5 = [1] ∧
    rowIs roundPart 0 .affirming = true ∧
    (let rd := { round5 with entries := round5.entries ++ [{ turbine := 2, sent := 0, status := .pending }] }
     pendingTurbines rd = [1, 2] ∧ (pendingTurbines rd).Nodup) ∧
    ({ known with misses := 1 } : TurbineRec).misses = 1 := by decide

/-- Turbine 1 has answered round 5, the only round in progress, and after it no round is due. -/
theorem witness_RealignTimersExpire_answered :
    (let rd := { round5 with entries := [{ turbine := 1, sent := 0, status := .confirmed }] }
     let p := { roundPart with rau := { roundPart.rau with records := [{ realign with round := some rd }, realign] } }
     Machine.sequencing p = true ∧ wordsClean p = true ∧ answeredRows p = [0] ∧ 0 < p.rsq.rows.length ∧
     (realignAt p 0).bind (·.round) = some rd ∧ ∀ r, roundDue (endRound 0 p) r = none) := by
  refine ⟨by decide, by decide, by decide, by decide, by decide, fun r => ?_⟩
  match r with
  | 0 => decide
  | 1 => decide
  | n + 2 => rfl

/-- Page 1 is VALID and the pending target, its limit reached, with turbine 1's burst still in row 0. -/
def forcedPart : Part :=
  { burstPart with
    rsq := { burstPart.rsq with switch := some { target := 1, limit := .running 0, retargeted := false } }
    tm := { part.tm with pages := [(0, .active), (1, .valid)] } }

theorem witness_SwitchLimitExpiry :
    wordsClean forcedPart = true ∧
    forcedPart.rsq.switch = some { target := 1, limit := .running 0, retargeted := false } ∧
    (Timer.running 0).isDue = true ∧ forcedPart.rsq.activePage = some 0 ∧ 0 ≠ 1 ∧
    pageValidity forcedPart 0 = .active ∧ burstOf forcedPart 1 = some burst1 ∧ burstOf forcedPart 2 = none ∧
    rowsAtRest forcedPart = false := by
  decide

/-- Turbine 1's move is in BURST with its burst; it is the only one, and page 1 lists its turbine in row 0. -/
theorem witness_SwitchLimitExpiry_moves :
    (bothPages forcedPart).canonical = true ∧
    (∀ t m, slot forcedPart t = some m → m.phase = .burst → burstOf forcedPart t ≠ none) ∧
    (∃ base : Count, ∀ t m, slot forcedPart t = some m → (m.arrival - base).toNat < 2147483648) ∧
    (∀ t u m n, slot forcedPart t = some m → slot forcedPart u = some n → m.arrival = n.arrival → t = u) ∧
    (let p := bothPages forcedPart
     (rowOf .ms 1 { p with rsq := { p.rsq with activePage := some 1 } }).1 = some 0) := by
  have one : ∀ t m, slot forcedPart t = some m → t = 1 ∧ m = move 60 .burst := burstPart_slots
  refine ⟨by decide, fun t m h _ => ?_, ⟨0, fun t m h => ?_⟩, fun t u m n h k _ => ?_, by decide⟩
  · rw [(one t m h).1]; decide
  · rw [(one t m h).2]; decide
  · rw [(one t m h).1, (one u n k).1]

/-- Page 1 lists no turbine 4, whose QUEUED move is gone after the switch. -/
theorem witness_SwitchLimitExpiry_listed_by_no_row :
    (let p := bothPages { forcedPart with ms := { forcedPart.ms with
       slots := [(1, some (move 60 .burst)), (4, some { move 20 .queued with arrival := 2 })] } }
     let q := run .switchLimitExpiry p
     slot p 4 = some { move 20 .queued with arrival := 2 } ∧ p.canonical = true ∧ burstOf p 1 = some burst1 ∧
     q.rsq.activePage = some 1 ∧ (rowOf .ms 4 q).1 = none ∧ (rowOf .ms 1 q).1 = some 0 ∧ slot q 4 = none) := by
  decide +kernel

/-- A switch whose rows are all CLOSED, with nothing else to settle. -/
theorem witness_SwitchLimitExpiry_at_rest :
    (let p := bothPages (switching 1 500)
     wordsClean p = true ∧ rowsAtRest p = true ∧ p.se.bursts = [] ∧ Machine.sequencing p = true ∧
     p.releaseDue = none ∧ p.rau.records.any roundAnswered = false ∧
     (rowIndices p).any (rowUnsettled p) = false ∧ p.startsDue = false) ∧
    forcedPart.startsDue = false ∧ forcedPart.se.bursts.isEmpty = false := by decide

/-- The scrub on a clean word, on a table that is LOADING, and on a damaged word of the config block. -/
theorem witness_Scrub :
    ({ part.tm with scrubTimer := .running 0 } : Tm).scrubTimer.isDue = true ∧ wordsClean part = true ∧
    tableLoading { part with tm := { part.tm with config := .loading } } (placeOf part.tm.scrubPointer).1 = true ∧
    (let p := withWord 0 damagedWord part
     0 < 24 ∧ p.tm.scrubPointer = 0 ∧ checkWord (wordAt p 0) = .damaged ∧ p.tm.config = .valid ∧
     p.ma.mode ≠ .through ∧ p.releaseDue = none ∧ p.tm.captureFrozen = false) := by decide +kernel

/-- The scrub at word `a` of a part whose timer is at zero. -/
def scrubbing (a : Nat) (p : Part) : Part := { p with tm := { p.tm with scrubPointer := a, scrubTimer := .running 0 } }

/-- A damaged config word of a VALID block in THROUGH, of an INVALID and of a LOADING block in HOLD. -/
theorem witness_Scrub_of_the_config_block :
    (let p := withWord 0 damagedWord (scrubbing 0 idlePart)
     p.tm.scrubTimer.isDue = true ∧ p.tm.scrubPointer = 0 ∧ checkWord (wordAt p 0) = .damaged ∧
     p.tm.config = .valid ∧ p.ma.mode = .through ∧ p.releaseDue = none) ∧
    (let p := withWord 0 damagedWord { commanded with tm := { commanded.tm with config := .invalid .checkFailed } }
     checkWord (wordAt p 0) = .damaged ∧ p.tm.config ≠ .loading ∧ p.ma.mode ≠ .through ∧ p.releaseDue = none) ∧
    (let p := withWord 3 damagedWord { commanded with tm := { commanded.tm with config := .loading } }
     checkWord (wordAt p 3) = .damaged ∧ p.tm.config = .loading ∧ 3 = Field.windowLimit) := by decide +kernel

theorem witness_Scrub_other_words :
    ∀ b, b ≠ 0 → checkWord (wordAt (withWord 0 damagedWord part) b) =
      .clean (wordAt (withWord 0 damagedWord part) b).value := fun _ => withWord_other _ (by decide)

theorem witness_Scrub_other_words_in_through :
    ∀ b, b ≠ 0 → checkWord (wordAt (withWord 0 damagedWord (scrubbing 0 idlePart)) b) =
      .clean (wordAt (withWord 0 damagedWord (scrubbing 0 idlePart)) b).value := fun _ => withWord_other _ (by decide)

/-- The scrub at a damaged word: of turbine 1's entry, of the ACTIVE page (row 1, header), of a VALID and an INVALID
page, and of the sector map. -/
theorem witness_Scrub_of_the_tables :
    (∀ a ∈ [24, 25, 417, 408, 601, 1951, 1955], let p := withWord a damagedWord (scrubbing a (switching 1 500))
      p.tm.scrubTimer.isDue = true ∧ p.tm.scrubPointer = a ∧ a < 1956 ∧ checkWord (wordAt p a) = .damaged ∧
      tableLoading p (placeOf a).1 = false) ∧
    (turbineWordA 1 = 24 ∧ turbineWordB 1 = 25 ∧ turbinePresent part 1 = true ∧ turbinePresent part 4 = false) ∧
    (pageWordAddr 0 9 = 417 ∧ pageWordAddr 0 0 = 408 ∧ pageWordAddr 1 0 = 601 ∧ pageWordAddr 7 192 = 1951 ∧
      1952 + 3 = 1955) ∧
    pageValidity (switching 1 500) 0 = .active ∧ pageValidity (switching 1 500) 1 = .valid ∧
    pageValidity (switching 1 500) 7 = .invalid .neverLoaded := by decide +kernel

/-- Turbine 1 with a burst, not named, then named in RefTurbine1; already marked; in THROUGH; an OPEN row left empty. -/
theorem witness_Scrub_of_fences :
    (∀ f, f < 24 → checkWord (wordAt burstPart f) = .clean (wordAt burstPart f).value) ∧
    1 ∉ [10, 11, 12, 13].map (deliveredField burstPart) ∧ burstPart.releaseDue = none ∧
    fenceMark burstPart 1 = false ∧ burstPart.ma.mode ≠ .through ∧ idlePart.ma.mode = .through ∧
    burstOf burstPart 1 = some burst1 ∧ burstOf part 1 = none ∧ slot burstPart 1 = some (move 60 .burst) ∧
    1 ∈ [10, 11, 12, 13].map (deliveredField (withWord 10 (freshWord 1#32) burstPart)) ∧
    fenceMark { part with tm := { part.tm with fences := [(1, true)] } } 1 = true ∧
    (rowAt openPart 0 = some openRow0 ∧ openRow0.state = .opened) := by decide +kernel

/-- Row 0 with a burst and row 0 with a queue are fenced; row 5 does not exist; a FENCED row stays. -/
theorem witness_Scrub_of_rows :
    (rowAt burstPart 0 = some openRow0 ∧ openRow0.state ≠ .fenced ∧ realignAt burstPart 0 = some realign ∧
      burstOf burstPart 1 = some burst1 ∧ (∀ c ∈ burstPart.se.bursts, c.turbine = 1 → c = burst1) ∧
      burst1.row = (1 - 1) / 8 ∧ slot burstPart 1 = some (move 60 .burst) ∧ 0 < burstPart.ms.queues.length) ∧
    1 ∈ queueAt openPart ((8 - 1) / 8) ∧ 3 ∉ queueAt openPart 0 ∧ part.rsq.rows.length ≤ (41 - 1) / 8 ∧
    rowIs { part with rsq := { part.rsq with rows := [{ closedRow with state := .fenced }] } } 0 .fenced = true ∧
    burstPart.canonical = true := by decide

end Sys2Proof.Tests
end

