-- ==== Sys2Proof/Proofs/ColdReset.lean ====
section
/-! PROOFS. The cold reset (R21): what it leaves in Table Memory, and what every reader of a config field then
receives. -/

namespace Sys2Proof.Machine

/-! ### Reset contents (R3, R5, R21) -/

theorem resetWord_config {a : Nat} (h : a < 24) : resetWord a = freshWord (BitVec.ofNat 32 (fieldDefault a)) := by
  simp [resetWord, resetValue, h]

theorem resetWord_turbineOrPage {a : Nat} (hlo : 24 ≤ a) (hhi : a < 1952) : resetWord a = freshWord 0#32 := by
  simp [resetWord, resetValue, Nat.not_lt.mpr hlo, hhi]

theorem resetWord_sectorMap {a : Nat} (h : 1952 ≤ a) : resetWord a = freshWord 0xFFFFFFFF#32 := by
  have h24 : ¬ a < 24 := by omega
  simp [resetWord, resetValue, h24, Nat.not_lt.mpr h]

/-- R4, R5: a default fits its word and lies in its field's range, so its delivery leaves it as it is. -/
theorem clampField_fieldDefault :
    ∀ f < 24, clampField f (BitVec.ofNat 32 (fieldDefault f)).toNat = fieldDefault f := by decide

/-- A config word at its reset contents is delivered as its default. -/
theorem deliveredField_of_resetWord {p : Part} {f : Nat} (h : f < 24) (hw : wordAt p f = resetWord f) :
    deliveredField p f = fieldDefault f := by
  have hclean : checkWord (wordAt p f) = .clean (BitVec.ofNat 32 (fieldDefault f)) := by
    rw [hw, resetWord_config h, checkWord_freshWord]
  simp only [deliveredField, hclean, clampField_fieldDefault f h]

/-! ### The cold reset (R21) -/

/-- The command completes with the part reset, and leaves the queue and the count of free choices. -/
theorem exec_coldReset (start : ColdStart) (s : State) :
    exec (.coldReset start) s =
      .next { s with part := coldReset start.strap (cutFrames start.cutC start.cutF s.part) } := by rfl

@[simp] theorem coldReset_tm (strap : BitVec 4) (p : Part) : (coldReset strap p).tm = Tm.cold := rfl
@[simp] theorem coldReset_ma (strap : BitVec 4) (p : Part) : (coldReset strap p).ma = Ma.cold := rfl

@[simp] theorem wordAt_coldReset (strap : BitVec 4) (p : Part) (a : Nat) :
    wordAt (coldReset strap p) a = resetWord a := rfl

@[simp] theorem pageValidity_coldReset (strap : BitVec 4) (p : Part) (n : Nat) :
    pageValidity (coldReset strap p) n = .invalid .neverLoaded := rfl

@[simp] theorem wordsClean_coldReset (strap : BitVec 4) (p : Part) : wordsClean (coldReset strap p) = true := rfl

theorem readConfig_coldReset (rd : Reader) {f : Nat} (strap : BitVec 4) (p : Part) (h : f < 24) :
    readConfig rd f (coldReset strap p) = (fieldDefault f, coldReset strap p) := by
  rw [readConfig_clean rd f (wordsClean_coldReset strap p),
    deliveredField_of_resetWord h (wordAt_coldReset strap p f)]

/-- Settles O4: the reset lists no word, so each read falls through to its reset contents, which are clean. -/
theorem coldResetSetsTheTables : Obligations.ColdResetSetsTheTables := by
  refine ⟨by decide, fun start s => ⟨_, exec_coldReset start s, rfl, rfl, ?_⟩⟩
  generalize cutFrames start.cutC start.cutF s.part = p
  refine ⟨fun f hf => ?config, fun a hlo hhi => ?zeros, fun a hlo _ => ?sectorMap, ?_⟩
  case config => rw [wordAt_coldReset, resetWord_config hf]
  case zeros => rw [wordAt_coldReset, resetWord_turbineOrPage hlo hhi]
  case sectorMap => rw [wordAt_coldReset, resetWord_sectorMap hlo]
  refine ⟨?_, ?_, pageValidity_coldReset start.strap p, ?_, ?_,
    fun rd _ hf => readConfig_coldReset rd start.strap p hf⟩
  · rw [coldReset_tm, Tm.cold]
  · rw [coldReset_tm, Tm.cold]
  · rw [coldReset_tm, Tm.cold]
  · rw [coldReset_ma, Ma.cold]

end Sys2Proof.Machine
end

section
/-! PROOFS. Usable reports and the wind fields of a report (R24). -/

namespace Sys2Proof.Machine

/-! ### Usable reports (R24) -/

theorem usableReport_iff (rep : Report) : usableReport rep = true ↔ rep.speed ≤ 400 ∧ rep.direction ≤ 3599 := by
  simp [usableReport]

theorem wruReport_of_unusable {rep : Report} (p : Part) (h : usableReport rep = false) : wruReport rep p = p := by
  simp [wruReport, h]

/-- SE and RAU take of a report its applied offset, its sequence, its round and its yaw status. -/
theorem seReport_wind (rep : Report) (v d t : Nat) (p : Part) :
    seReport t { rep with speed := v, direction := d } p = seReport t rep p := rfl

theorem rauReport_wind (rep : Report) (v d t : Nat) (p : Part) :
    rauReport t { rep with speed := v, direction := d } p = rauReport t rep p := rfl

/-- Settles O14: usable is the two ranges, WRU takes no other report, and SE and RAU read no wind field. -/
theorem unusableReportsAreIgnored : Obligations.UnusableReportsAreIgnored :=
  ⟨usableReport_iff, fun _ p h => wruReport_of_unusable p h,
    fun rep v d t p => ⟨seReport_wind rep v d t p, rauReport_wind rep v d t p⟩⟩

end Sys2Proof.Machine
end

section
/-! PROOFS. What leaves the smoothed wind and the mode alone: every operation of the part up to the ends of the
table loads, in the order of the model's files. -/

namespace Sys2Proof.Machine

/-! ### The view -/

/-- What R26 and R27 keep of the wind: whether it is seeded, and both accumulators. -/
def Wru.accs (w : Wru) : Bool × Nat × Nat := (w.seeded, w.speedAcc, w.dirAcc)

/-- Timers, active sector and plan-missing flag are no part of it. -/
@[simp] theorem Wru.accs_mk (w : Wru) (fresh gust excursion : Timer) (sector : Option Nat) (missing : Bool) :
    Wru.accs { seeded := w.seeded, speedAcc := w.speedAcc, dirAcc := w.dirAcc, freshness := fresh, gust := gust,
               excursion := excursion, activeSector := sector, planMissing := missing } = w.accs := by
  simp only [Wru.accs]

/-- The accumulators of the wind with the mode they are kept in: outside the stages of a report, WRU's stop, the
resets and MA's own transitions, no operation of the part writes either. -/
def windView (p : Part) : (Bool × Nat × Nat) × Mode := (p.wru.accs, p.ma.mode)

theorem accs_eq_of_windView {p q : Part} (h : windView q = windView p) : q.wru.accs = p.wru.accs :=
  congrArg Prod.fst h

theorem mode_eq_of_windView {p q : Part} (h : windView q = windView p) : q.ma.mode = p.ma.mode :=
  congrArg Prod.snd h

/-- The part a read hands back has the view the reading part had. -/
theorem windView_of_read {α : Type} {x : α × Part} {v : α} {p q : Part} (hread : x = (v, q))
    (h : windView x.2 = windView p) : windView q = windView p := by
  simpa [hread] using h

/-! ### Updates of one block -/

section
variable (p : Part)

@[simp] theorem onTi_windView (g : Ti → Ti) : windView (p.onTi g) = windView p := rfl
@[simp] theorem onMs_windView (g : Ms → Ms) : windView (p.onMs g) = windView p := rfl
@[simp] theorem onRsq_windView (g : Rsq → Rsq) : windView (p.onRsq g) = windView p := rfl
@[simp] theorem onSe_windView (g : Se → Se) : windView (p.onSe g) = windView p := rfl
@[simp] theorem onRau_windView (g : Rau → Rau) : windView (p.onRau g) = windView p := rfl
@[simp] theorem onTm_windView (g : Tm → Tm) : windView (p.onTm g) = windView p := rfl

@[simp] theorem onMa_windView {g : Ma → Ma} (h : ∀ m, (g m).mode = m.mode) : windView (p.onMa g) = windView p := by
  simp [windView, h]

@[simp] theorem onWru_windView {g : Wru → Wru} (h : ∀ w, (g w).accs = w.accs) : windView (p.onWru g) = windView p := by
  simp [windView, h]

@[simp] theorem foldl_windView {α : Type} {g : Part → α → Part} (h : ∀ q a, windView (g q a) = windView q)
    (l : List α) : windView (l.foldl g p) = windView p := by
  induction l generalizing p with
  | nil => rfl
  | cons a l ih => rw [List.foldl_cons, ih, h]

/-- A fold that carries a result beside the part. -/
@[simp] theorem foldl_snd_windView {α β : Type} {g : β × Part → α → β × Part}
    (h : ∀ x a, windView (g x a).2 = windView x.2) (l : List α) (x : β × Part) :
    windView (l.foldl g x).2 = windView x.2 := by
  induction l generalizing x with
  | nil => rfl
  | cons a l ih => rw [List.foldl_cons, ih, h]

/-! ### Shared operations -/

@[simp] theorem writeWord_windView (a : Nat) (v : Word) : windView (writeWord a v p) = windView p := rfl
@[simp] theorem setPageValidity_windView (n : Nat) (v : Validity) : windView (setPageValidity n v p) = windView p := rfl
@[simp] theorem setConfigValidity_windView (v : Validity) : windView (setConfigValidity v p) = windView p := rfl
@[simp] theorem setTurbineValidity_windView (v : Validity) : windView (setTurbineValidity v p) = windView p := rfl

@[simp] theorem requestRelease_windView (c : ReleaseCause) : windView (requestRelease c p) = windView p := by
  unfold requestRelease
  repeat' split
  all_goals rfl

@[simp] theorem setFenceMark_windView (t : Nat) : windView (setFenceMark t p) = windView p := rfl
@[simp] theorem setSlot_windView (t : Nat) (m : Option Move) : windView (setSlot t m p) = windView p := rfl
@[simp] theorem setTurbine_windView (t : Nat) (r : TurbineRec) : windView (setTurbine t r p) = windView p := rfl
@[simp] theorem modifyTurbine_windView (t : Nat) (g : TurbineRec → TurbineRec) :
    windView (modifyTurbine t g p) = windView p := rfl
@[simp] theorem modifyBurst_windView (t : Nat) (g : Burst → Burst) : windView (modifyBurst t g p) = windView p := rfl
@[simp] theorem dropBurst_windView (t : Nat) : windView (dropBurst t p) = windView p := rfl
@[simp] theorem addBurst_windView (b : Burst) : windView (addBurst b p) = windView p := rfl
@[simp] theorem modifyRow_windView (r : Nat) (g : RowRec → RowRec) : windView (modifyRow r g p) = windView p := rfl
@[simp] theorem setRowState_windView (r : Nat) (st : RowState) : windView (setRowState r st p) = windView p := rfl
@[simp] theorem modifyQueue_windView (r : Nat) (g : List Nat → List Nat) :
    windView (modifyQueue r g p) = windView p := rfl
@[simp] theorem modifyRealign_windView (r : Nat) (g : RealignRec → RealignRec) :
    windView (modifyRealign r g p) = windView p := rfl

@[simp] theorem onPort_windView (port : Port) (g : PortState → PortState) : windView (onPort port g p) = windView p := by
  simp [windView]

@[simp] theorem forwardFrame_windView (port : Port) (f : Frame) : windView (forwardFrame port f p) = windView p := by
  unfold forwardFrame
  split <;> simp

@[simp] theorem insertFrame_windView (port : Port) (q : QFrame) : windView (insertFrame port q p) = windView p := by
  simp [insertFrame]

@[simp] theorem raiseAlert_windView (k : AlertKind) (subj : Subject) :
    windView (raiseAlert k subj p) = windView p := by simp [windView]

@[simp] theorem pushAnswer_windView (a : Answer) : windView (pushAnswer a p) = windView p := rfl

/-! ### The Move Store -/

@[simp] theorem enqueue_windView (t r : Nat) : windView (enqueue t r p) = windView p := rfl
@[simp] theorem dequeue_windView (t : Nat) : windView (dequeue t p) = windView p := rfl
@[simp] theorem replaceInQueue_windView (t : Nat) : windView (replaceInQueue t p) = windView p := rfl
@[simp] theorem appendForward_windView (e : FwdEntry) : windView (appendForward e p) = windView p := rfl
@[simp] theorem replaceForward_windView (e : FwdEntry) : windView (replaceForward e p) = windView p := rfl
@[simp] theorem removeForward_windView (dst : Addr) : windView (removeForward dst p) = windView p := rfl
@[simp] theorem finishMove_windView (t : Nat) : windView (finishMove t p) = windView p := rfl

@[simp] theorem modifyMove_windView (t : Nat) (g : Move → Move) : windView (modifyMove t g p) = windView p := by
  unfold modifyMove
  split <;> simp

@[simp] theorem recordFault_windView (t : Nat) (fault : MoveFault) : windView (recordFault t fault p) = windView p := by
  unfold recordFault
  repeat' split
  all_goals simp

@[simp] theorem offsetChanged_windView (t : Nat) : windView (offsetChanged t p) = windView p := by
  unfold offsetChanged
  repeat' split
  all_goals simp

@[simp] theorem requeueMove_windView (t r : Nat) : windView (requeueMove t r p) = windView p := by
  unfold requeueMove
  repeat' split
  all_goals simp

@[simp] theorem putForward_windView (e : FwdEntry) : windView (putForward e p) = windView p := by
  unfold putForward
  split <;> simp

@[simp] theorem forwardMove_windView (t : Nat) : windView (forwardMove t p) = windView p := by
  unfold forwardMove
  split <;> simp

@[simp] theorem forwardMoves_windView (ts : List Nat) : windView (forwardMoves ts p) = windView p := by
  simp [forwardMoves]

@[simp] theorem createMove_windView (t r : Nat) (sp : Setpoint) : windView (createMove t r sp p) = windView p := by
  simp only [createMove]
  split <;> simp

@[simp] theorem supersedeQueued_windView (t : Nat) (m : Move) (sp : Setpoint) :
    windView (supersedeQueued t m sp p) = windView p := by
  simp only [supersedeQueued]
  split <;> simp

/-! ### Bursts and fences -/

@[simp] theorem makeSuspect_windView (t : Nat) : windView (makeSuspect t p) = windView p := by
  unfold makeSuspect
  split <;> simp

@[simp] theorem resolveBurst_windView (t : Nat) : windView (resolveBurst t p) = windView p := by
  unfold resolveBurst
  repeat' split
  all_goals simp

@[simp] theorem resolveIfDone_windView (t : Nat) : windView (resolveIfDone t p) = windView p := by
  unfold resolveIfDone
  repeat' split
  all_goals simp

@[simp] theorem abandonBurst_windView (t : Nat) (fault : Option MoveFault) :
    windView (abandonBurst t fault p) = windView p := by
  unfold abandonBurst
  split
  · rfl
  · cases fault <;> simp

@[simp] theorem abandonBursts_windView (ts : List Nat) : windView (abandonBursts ts p) = windView p := by
  simp [abandonBursts]

@[simp] theorem noStartsDue_windView : windView (noStartsDue p) = windView p := rfl

@[simp] theorem endBurst_windView (t : Nat) : windView (endBurst t p) = windView p := by simp [endBurst]

@[simp] theorem drainRow_windView (r : Nat) : windView (drainRow r p) = windView p := by
  unfold drainRow
  split <;> simp

@[simp] theorem drainIfEmpty_windView (r : Nat) : windView (drainIfEmpty r p) = windView p := by
  unfold drainIfEmpty
  split <;> simp

@[simp] theorem drainAllRows_windView : windView (drainAllRows p) = windView p := by simp [drainAllRows]

@[simp] theorem gustStart_windView : windView (gustStart p) = windView p := rfl
@[simp] theorem gustClear_windView : windView (gustClear p) = windView p := rfl
@[simp] theorem fenceRealign_windView (r : Nat) : windView (fenceRealign r p) = windView p := rfl
@[simp] theorem removeRoundEntry_windView (t : Nat) : windView (removeRoundEntry t p) = windView p := rfl

@[simp] theorem fenceRowCore_windView (r : Nat) : windView (fenceRowCore r p) = windView p := by simp [fenceRowCore]

@[simp] theorem fenceRow_windView (r : Nat) : windView (fenceRow r p) = windView p := by
  unfold fenceRow
  repeat' split
  all_goals simp

@[simp] theorem fenceAllRows_windView : windView (fenceAllRows p) = windView p := by simp [fenceAllRows]

@[simp] theorem fenceTurbineBlocks_windView (t : Nat) : windView (fenceTurbineBlocks t p) = windView p := by
  simp [fenceTurbineBlocks]

@[simp] theorem fenceTurbine_windView (t : Nat) : windView (fenceTurbine t p) = windView p := by
  simp only [fenceTurbine]
  repeat' split
  all_goals simp

/-! ### Checked reads -/

@[simp] theorem recordCorrected_windView (a : Nat) : windView (recordCorrected a p) = windView p := rfl
@[simp] theorem writeDefault_windView (f : Nat) : windView (writeDefault f p) = windView p := rfl
@[simp] theorem applyWindow_windView (l n : Nat) : windView (applyWindow l n p) = windView p := rfl
@[simp] theorem applyFreshWindow_windView : windView (applyFreshWindow p) = windView p := rfl

@[simp] theorem noteDamaged_windView (rd : Reader) (a : Nat) : windView (noteDamaged rd a p) = windView p := by
  simp only [noteDamaged]
  split <;> simp

@[simp] theorem invalidateConfig_windView : windView (invalidateConfig p) = windView p := by
  unfold invalidateConfig
  split <;> simp

@[simp] theorem wearTest_windView (n : Nat) : windView (wearTest n p) = windView p := by
  unfold wearTest
  split <;> simp

@[simp] theorem wearCheck_windView : windView (wearCheck p) = windView p := by
  unfold wearCheck
  split <;> simp

@[simp] theorem readWindowField_windView (f : Nat) : windView (readWindowField f p).2 = windView p := by
  unfold readWindowField
  split <;> simp

@[simp] theorem reviseWindow_windView : windView (reviseWindow p) = windView p := by simp [reviseWindow]

@[simp] theorem handWindowWrite_windView (f : Nat) : windView (handWindowWrite f p) = windView p := by
  unfold handWindowWrite
  split <;> simp

/-- R163: whatever a read meets, and whatever follows from it, the wind and the mode stay. -/
@[simp] theorem checkedRead_windView (rd : Reader) (a : Nat) : windView (checkedRead rd a p).2 = windView p := by
  unfold checkedRead
  split <;> simp

@[simp] theorem configDamaged_windView (f : Nat) : windView (configDamaged f p) = windView p := by simp [configDamaged]

@[simp] theorem readConfig_windView (rd : Reader) (f : Nat) : windView (readConfig rd f p).2 = windView p := by
  have hread := checkedRead_windView p rd f
  unfold readConfig
  split <;> simp_all

@[simp] theorem namedReference_windView (rd : Reader) (t : Nat) : windView (namedReference rd t p).2 = windView p := by
  simp [namedReference]

@[simp] theorem entryDamaged_windView (t : Nat) : windView (entryDamaged t p) = windView p := by
  simp only [entryDamaged]
  split <;> simp

@[simp] theorem readTurbineA_windView (rd : Reader) (t : Nat) : windView (readTurbineA rd t p).2 = windView p := by
  have hread := checkedRead_windView p rd (turbineWordA t)
  unfold readTurbineA
  split <;> simp_all

@[simp] theorem wordBDamaged_windView (t : Nat) : windView (wordBDamaged t p) = windView p := by
  have hread := checkedRead_windView p .check (turbineWordA t)
  unfold wordBDamaged
  repeat' split
  all_goals simp_all

@[simp] theorem readTurbineB_windView (rd : Reader) (t : Nat) : windView (readTurbineB rd t p).2 = windView p := by
  have hread := checkedRead_windView p rd (turbineWordB t)
  unfold readTurbineB
  split <;> simp_all

@[simp] theorem mapFrom_windView (a : Addr) (n t : Nat) : windView (mapFrom a n t p).2 = windView p := by
  induction n generalizing t p with
  | zero => rfl
  | succ n ih =>
    have hread := readTurbineA_windView p .ti t
    unfold mapFrom
    repeat' split
    all_goals simp_all

@[simp] theorem mapAddress_windView (a : Addr) : windView (mapAddress a p).2 = windView p := by simp [mapAddress]

@[simp] theorem activeWordDamaged_windView (w : Nat) : windView (activeWordDamaged w p) = windView p := by
  unfold activeWordDamaged
  repeat' split
  all_goals simp

@[simp] theorem readActive_windView (rd : Reader) (w : Nat) : windView (readActive rd w p).2 = windView p := by
  unfold readActive
  split
  · rfl
  · next n _ =>
    have hread := checkedRead_windView p rd (pageWordAddr n w)
    split <;> simp_all

@[simp] theorem readActiveRun_windView (rd : Reader) (r n k : Nat) :
    windView (readActiveRun rd r n k p).2 = windView p := by
  induction n generalizing k p with
  | zero => rfl
  | succ n ih =>
    have hread := readActive_windView p rd (rowWord r k)
    have hrest := fun q => ih q (k + 1)
    grind [readActiveRun]

@[simp] theorem rowMembers_windView (rd : Reader) (r : Nat) : windView (rowMembers rd r p).2 = windView p := by
  have hread := readActive_windView p rd (rowWord r 0)
  have hrun := readActiveRun_windView (rd := rd) (r := r) (k := 1)
  grind [rowMembers]

@[simp] theorem rowFeeders_windView (rd : Reader) (r : Nat) : windView (rowFeeders rd r p).2 = windView p := by
  have hread := readActive_windView p rd (rowWord r 0)
  have hrun := readActiveRun_windView (rd := rd) (r := r) (k := 5)
  grind [rowFeeders]

@[simp] theorem rowListing_windView (rd : Reader) (t : Nat) (rs : List Nat) :
    windView (rowListing rd t rs p).2 = windView p := by
  induction rs generalizing p with
  | nil => rfl
  | cons r rs ih =>
    have hread := rowMembers_windView p rd r
    unfold rowListing
    repeat' split
    all_goals simp_all

@[simp] theorem rowOf_windView (rd : Reader) (t : Nat) : windView (rowOf rd t p).2 = windView p := by simp [rowOf]

end

section
variable (p : Part)

/-! ### Rows on their way to CLOSED -/

@[simp] theorem raiseHoldUntil_windView (d spacing speed : Nat) :
    windView (raiseHoldUntil d spacing speed p) = windView p := by simp [raiseHoldUntil]

@[simp] theorem raiseDownstream_windView (r speed d : Nat) : windView (raiseDownstream r speed d p) = windView p := by
  have hread := rowFeeders_windView p .rsq d
  unfold raiseDownstream
  repeat' split
  all_goals simp_all

@[simp] theorem closeRow_windView (r : Nat) : windView (closeRow r p) = windView p := by
  simp only [closeRow]
  repeat' split
  all_goals simp

@[simp] theorem settleRow_windView (r : Nat) : windView (settleRow r p) = windView p := by
  have hread := readActive_windView (drainIfEmpty r p) .rsq (rowWord r 7)
  simp only [settleRow]
  repeat' split
  all_goals simp_all

@[simp] theorem settleRows_windView : windView (settleRows p) = windView p := by simp [settleRows]

/-! ### The Step Engine -/

@[simp] theorem issueStep_windView (t y m : Nat) : windView (issueStep t y m p) = windView p := by
  unfold issueStep
  split <;> simp

@[simp] theorem releaseStep_windView (t : Nat) : windView (releaseStep t p) = windView p := by
  have hread := readTurbineB_windView p .se t
  unfold releaseStep
  split
  · split <;> simp_all
  · rfl

@[simp] theorem offerPlace_windView (l : List Nat) : windView (offerPlace l p) = windView p := by
  induction l generalizing p with
  | nil => rfl
  | cons t l ih =>
    simp only [offerPlace]
    split <;> simp [ih]

@[simp] theorem serveBursts_windView (n : Nat) : windView (serveBursts n p) = windView p := by
  induction n generalizing p with
  | zero => rfl
  | succ n ih =>
    simp only [serveBursts]
    split <;> simp [ih]

@[simp] theorem releaseSteps_windView (t : Nat) : windView (releaseSteps t p) = windView p := by
  unfold releaseSteps
  split <;> simp

@[simp] theorem confirmStep_windView (t : Nat) (b : Burst) (i : Nat) (c : Int) :
    windView (confirmStep t b i c p) = windView p := by simp [confirmStep]

@[simp] theorem mismatchStep_windView (t : Nat) (b : Burst) (i : Nat) (a : Int) :
    windView (mismatchStep t b i a p) = windView p := by simp [mismatchStep]

@[simp] theorem lateConfirm_windView (t : Nat) (n : BitVec 4) (a : Int) :
    windView (lateConfirm t n a p) = windView p := by
  simp only [lateConfirm]
  repeat' split
  all_goals simp

@[simp] theorem matchSequence_windView (t : Nat) (n : BitVec 4) (a : Int) :
    windView (matchSequence t n a p) = windView p := by
  have hread := readConfig_windView p .se Field.tolerance
  simp only [matchSequence]
  repeat' split
  all_goals simp_all

@[simp] theorem setLock_windView (t : Nat) : windView (setLock t p) = windView p := by simp [setLock]
@[simp] theorem clearLock_windView (t : Nat) : windView (clearLock t p) = windView p := by simp [clearLock]

@[simp] theorem takeYaw_windView (t : Nat) (passed : Bool) (y : YawStatus) :
    windView (takeYaw t passed y p) = windView p := by
  unfold takeYaw
  repeat' split
  all_goals simp

@[simp] theorem mayStartBurst_windView (r : Nat) : windView (mayStartBurst r p).2 = windView p := by
  have hread := readActive_windView p .se (rowWord r 0)
  unfold mayStartBurst
  split
  · split
    · simp_all
    · split <;> simp_all
  · rfl

@[simp] theorem reloadGrace_windView (r : Nat) : windView (reloadGrace r p) = windView p := by
  have hread := readActive_windView p .rsq (rowWord r 7)
  unfold reloadGrace
  split <;> simp_all

@[simp] theorem takeMove_windView (t : Nat) : windView (takeMove t p) = windView p := by simp [takeMove]

@[simp] theorem startBurst_windView (r t : Nat) : windView (startBurst r t p) = windView p := by
  simp only [startBurst]
  repeat' split
  all_goals simp

@[simp] theorem nextStart_windView (l : List Nat) : windView (nextStart l p).2 = windView p := by
  induction l generalizing p with
  | nil => rfl
  | cons r l ih =>
    have htest := mayStartBurst_windView p r
    unfold nextStart
    split <;> simp_all

@[simp] theorem startBursts_windView (n : Nat) : windView (startBursts n p) = windView p := by
  induction n generalizing p with
  | zero => rfl
  | succ n ih =>
    have hnext := nextStart_windView p (rowIndices p)
    unfold startBursts
    split <;> simp_all

/-- SE's note that its arbiter is due, and its end. -/
@[simp] theorem startsDue_windView (b : Bool) : windView { p with startsDue := b } = windView p := rfl

@[simp] theorem runStarts_windView : windView (runStarts p) = windView p := by simp [runStarts]
@[simp] theorem gustEnd_windView : windView (gustEnd p) = windView p := by simp [gustEnd]
@[simp] theorem timeoutStep_windView (t : Nat) (b : Burst) : windView (timeoutStep t b p) = windView p := by
  simp [timeoutStep]
@[simp] theorem lockExpired_windView (t : Nat) : windView (lockExpired t p) = windView p := by simp [lockExpired]
@[simp] theorem clearSuspect_windView (t : Nat) : windView (clearSuspect t p) = windView p := rfl

@[simp] theorem takeSupersede_windView (t : Nat) (b : Burst) (o : BurstSupersede) :
    windView (takeSupersede t b o p) = windView p := by
  unfold takeSupersede
  repeat' split
  all_goals simp

@[simp] theorem supersedeBurst_windView (t : Nat) (m : Move) (sp : Setpoint) :
    windView (supersedeBurst t m sp p) = windView p := by
  simp only [supersedeBurst]
  split <;> simp

@[simp] theorem intake_windView (t r : Nat) (sp : Setpoint) : windView (intake t r sp p) = windView p := by
  unfold intake
  repeat' split
  all_goals simp

@[simp] theorem diversion_windView (dst : Addr) : windView (diversion dst p).2 = windView p := by
  have hmap := mapAddress_windView p dst
  have hread := readTurbineB_windView (rd := .ti)
  have hrow := rowOf_windView (rd := .ti)
  grind [diversion]

@[simp] theorem countAimClamp_windView (a : RawAim) : windView (countAimClamp a p) = windView p := by
  unfold countAimClamp
  split <;> simp

@[simp] theorem routeBehindForward_windView (a : RawAim) : windView (routeBehindForward a p) = windView p := by
  have hdiv := diversion_windView (countAimClamp a p) a.dst
  simp only [routeBehindForward]
  split <;> simp_all

/-! ### The Realign Unit -/

@[simp] theorem dropRoundEntry_windView (r t : Nat) : windView (dropRoundEntry r t p) = windView p := rfl

@[simp] theorem sendAffirm_windView (r : Nat) (number : BitVec 8) (t : Nat) :
    windView (sendAffirm r number t p) = windView p := by
  have hread := readTurbineA_windView p .rau t
  simp only [sendAffirm]
  repeat' split
  all_goals simp_all

@[simp] theorem startRound_windView (r : Nat) (k : RoundKind) (ts : List Nat) :
    windView (startRound r k ts p) = windView p := by simp [startRound]

@[simp] theorem startFirstRound_windView (l : List Nat) : windView (startFirstRound l p) = windView p := by
  induction l generalizing p with
  | nil => rfl
  | cons r l ih =>
    have hread := rowMembers_windView p .rau r
    unfold startFirstRound
    repeat' split
    all_goals grind [startRound_windView]

@[simp] theorem startRounds_windView (n : Nat) : windView (startRounds n p) = windView p := by
  induction n generalizing p with
  | zero => rfl
  | succ n ih => simp [startRounds, ih]

@[simp] theorem setEntryStatus_windView (r t : Nat) (st : EntryStatus) :
    windView (setEntryStatus r t st p) = windView p := rfl

@[simp] theorem affirmMismatch_windView (t : Nat) (a : Int) : windView (affirmMismatch t a p) = windView p := by
  simp [affirmMismatch]

@[simp] theorem rauReport_windView (t : Nat) (rep : Report) : windView (rauReport t rep p) = windView p := by
  have hread := readConfig_windView p .rau Field.tolerance
  unfold rauReport
  repeat' split
  all_goals simp_all

@[simp] theorem countMiss_windView (t : Nat) : windView (countMiss t p) = windView p := by
  simp only [countMiss]
  split <;> simp

@[simp] theorem endRound_windView (r : Nat) : windView (endRound r p) = windView p := by
  simp only [endRound]
  repeat' split
  all_goals simp

@[simp] theorem completeRound_windView (r : Nat) : windView (completeRound r p) = windView p := by
  simp [completeRound]

@[simp] theorem completeRounds_windView (n : Nat) : windView (completeRounds n p) = windView p := by
  induction n generalizing p with
  | zero => rfl
  | succ n ih =>
    unfold completeRounds
    split <;> simp [ih]

@[simp] theorem overrun_windView (r : Nat) (u : RealignRec) : windView (overrun r u p) = windView p := by
  simp only [overrun]
  split <;> simp

@[simp] theorem addOwed_windView (r : Nat) (u : RealignRec) : windView (addOwed r u p) = windView p := by
  simp only [addOwed]
  repeat' split
  all_goals simp

@[simp] theorem realignExpired_windView (r : Nat) (u : RealignRec) : windView (realignExpired r u p) = windView p := by
  simp only [realignExpired]
  cases u.pendingReload <;> simp

@[simp] theorem takePendingReload_windView : windView (takePendingReload p) = windView p := by
  simp [takePendingReload]

@[simp] theorem buildRealign_windView (due : Bool) : windView (buildRealign due p) = windView p := by
  simp [buildRealign]

@[simp] theorem clearHoldDues_windView : windView (clearHoldDues p) = windView p := rfl

@[simp] theorem setExitDue_windView : windView (setExitDue p) = windView p := by
  unfold setExitDue
  rw [foldl_windView _ fun _ _ => by rw [modifyRealign_windView], clearHoldDues_windView]

/-! ### The Row Sequencer -/

@[simp] theorem cycleElapsed_windView (row : RowRec) : windView (cycleElapsed row p).2 = windView p := by
  unfold cycleElapsed
  split <;> simp

@[simp] theorem feedersPass_windView (r : Nat) : windView (feedersPass r p).2 = windView p := by
  have hread := rowFeeders_windView p .rsq r
  unfold feedersPass
  split <;> simp_all

@[simp] theorem roomToOpen_windView : windView (roomToOpen p).2 = windView p := by
  simp only [roomToOpen]
  split <;> simp

@[simp] theorem eligible_windView (r : Nat) : windView (eligible r p).2 = windView p := by
  have hcycle := fun row => cycleElapsed_windView p row
  have hfeeders := fun q => feedersPass_windView q r
  grind [eligible, roomToOpen_windView]

@[simp] theorem openRow_windView (r : Nat) : windView (openRow r p) = windView p := by
  have hread := readActive_windView p .rsq (rowWord r 7)
  unfold openRow
  split <;> simp_all

@[simp] theorem openFirst_windView (l : List Nat) : windView (openFirst l p) = windView p := by
  induction l generalizing p with
  | nil => rfl
  | cons r l ih =>
    have htest := eligible_windView p r
    unfold openFirst
    split <;> simp_all

@[simp] theorem runArbiter_windView (n : Nat) : windView (runArbiter n p) = windView p := by
  induction n generalizing p with
  | zero => rfl
  | succ n ih => simp [runArbiter, grantOpening, ih]

@[simp] theorem placeMove_windView (t : Nat) : windView (placeMove p t) = windView p := by
  have hrow := rowOf_windView p .ms t
  unfold placeMove
  repeat' split
  all_goals simp_all

@[simp] theorem buildQueues_windView : windView (buildQueues p) = windView p := by simp [buildQueues]

@[simp] theorem buildRows_windView (n : Nat) (due : Bool) : windView (buildRows n due p) = windView p := by
  simp only [buildRows]
  split
  · next w q hread =>
    have hq : windView q = windView p := windView_of_read hread (by simp)
    simp [hq]
  · next q hread =>
    have hq : windView q = windView p := windView_of_read hread (by simp)
    simp [hq]

/-! ### Page switching and the plan check -/

@[simp] theorem beginSwitch_windView (n : Nat) : windView (beginSwitch n p) = windView p := by simp [beginSwitch]
@[simp] theorem retargetSwitch_windView (n : Nat) (sw : SwitchRec) : windView (retargetSwitch n sw p) = windView p := rfl
@[simp] theorem endPending_windView : windView (endPending p) = windView p := by simp [endPending, dropSwitch]

@[simp] theorem cancelSwitch_windView : windView (cancelSwitch p) = windView p := by
  unfold cancelSwitch
  split <;> simp

@[simp] theorem requestPage_windView (n : Nat) : windView (requestPage n p) = windView p := by
  unfold requestPage
  repeat' split
  all_goals simp

@[simp] theorem readEntry_windView (rd : Reader) (s : Nat) : windView (readEntry rd s p).2 = windView p := by
  have hread := checkedRead_windView p rd (1952 + s / 4)
  unfold readEntry
  split <;> simp_all

@[simp] theorem setPlanMissing_windView : windView (setPlanMissing p) = windView p := by
  unfold setPlanMissing
  split <;> simp

@[simp] theorem clearPlanMissing_windView : windView (clearPlanMissing p) = windView p := rfl

@[simp] theorem applyPlan_windView (entry : Byte) : windView (applyPlan entry p) = windView p := by
  unfold applyPlan
  repeat' split
  all_goals simp

/-- R35: a plan check reads the active sector, and leaves the smoothed wind as it is. -/
@[simp] theorem planCheck_windView : windView (planCheck p) = windView p := by
  unfold planCheck
  split
  · split <;> simp
  · rfl

@[simp] theorem pageChanged_windView (n : Nat) : windView (pageChanged n p) = windView p := by
  unfold pageChanged
  repeat' split
  all_goals simp

@[simp] theorem handPageChange_windView (n : Nat) (was : Validity) : windView (handPageChange n was p) = windView p := by
  unfold handPageChange
  split <;> simp

@[simp] theorem pageWordDamaged_windView (n w : Nat) : windView (pageWordDamaged n w p) = windView p := by
  unfold pageWordDamaged
  split <;> simp

@[simp] theorem readPageWord_windView (rd : Reader) (n w : Nat) : windView (readPageWord rd n w p).2 = windView p := by
  have hread := checkedRead_windView p rd (pageWordAddr n w)
  unfold readPageWord
  split <;> simp_all

@[simp] theorem retirePage_windView : windView (retirePage p) = windView p := by
  unfold retirePage
  repeat' split
  all_goals simp

@[simp] theorem takeSwitch_windView (n : Nat) (forced : Bool) : windView (takeSwitch n forced p) = windView p := by
  simp [takeSwitch]

@[simp] theorem takeTest_windView : windView (takeTest p) = windView p := by
  unfold takeTest
  repeat' split
  all_goals simp

@[simp] theorem forceSwitch_windView (n : Nat) : windView (forceSwitch n p) = windView p := by simp [forceSwitch]

/-! ### A turbine's report at SE -/

@[simp] theorem settleStarts_windView (n : Nat) : windView (settleStarts n p) = windView p := by
  induction n generalizing p with
  | zero => simp [settleStarts]
  | succ n ih =>
    simp only [settleStarts]
    split <;> simp [ih]

@[simp] theorem runStartsDue_windView : windView (runStartsDue p) = windView p := by
  unfold runStartsDue
  split <;> simp

@[simp] theorem firstReport_windView (t : Nat) (rep : Report) : windView (firstReport t rep p) = windView p := by
  simp only [firstReport]
  split <;> simp

@[simp] theorem passedThrough_windView (t : Nat) : windView (passedThrough t p).2 = windView p := by
  have hread := readTurbineB_windView p .se t
  have hrow := fun q => rowOf_windView q .se t
  grind [passedThrough]

@[simp] theorem takeOffset_windView (t : Nat) (passed : Bool) (rep : Report) :
    windView (takeOffset t passed rep p) = windView p := by
  simp only [takeOffset]
  repeat' split
  all_goals simp

@[simp] theorem seReport_windView (t : Nat) (rep : Report) : windView (seReport t rep p) = windView p := by
  have hpassed := passedThrough_windView p t
  simp only [seReport]
  repeat' split
  all_goals simp_all

/-! ### The active sector, the sector map and the stages of a report -/

@[simp] theorem setSector_windView (s : Nat) : windView (setSector s p) = windView p := by
  unfold setSector
  split <;> simp

@[simp] theorem loseSector_windView : windView (loseSector p) = windView p := by
  unfold loseSector
  split <;> simp

@[simp] theorem readMapWord_windView (w : Nat) : windView (readMapWord w p).2 = windView p := by
  have hread := checkedRead_windView p .check (1952 + w)
  unfold readMapWord
  split <;> simp_all

@[simp] theorem writePendingEntry_windView : windView (writePendingEntry p) = windView p := by
  unfold writePendingEntry
  split <;> simp [writeEntry]

@[simp] theorem gustTest_windView (speed : Nat) : windView (gustTest speed p) = windView p := by
  unfold gustTest
  split
  · rfl
  · simp only
    split
    · split <;> simp
    · simp

@[simp] theorem spanTest_windView (a d : Nat) : windView (spanTest a d p) = windView p := by
  simp only [spanTest]
  split
  · simp
  · split <;> simp

@[simp] theorem trackSector_windView : windView (trackSector p) = windView p := by
  unfold trackSector
  repeat' split
  all_goals simp

@[simp] theorem excursionExpired_windView : windView (excursionExpired p) = windView p := by
  simp only [excursionExpired]
  split <;> simp

end

section
variable (p : Part)

/-! ### Table loads -/

@[simp] theorem writeMapWord_windView (w : Nat) (v : Word) : windView (writeMapWord w v p) = windView p := by
  simp only [writeMapWord]
  repeat' split
  all_goals simp

@[simp] theorem writeLoadWord_windView (t : Table) (i : Nat) (v : Word) :
    windView (writeLoadWord t i v p) = windView p := by
  unfold writeLoadWord
  split <;> simp

@[simp] theorem writeLoadWords_windView (t : Table) (i : Nat) (vs : List Word) :
    windView (writeLoadWords t i vs p) = windView p := by
  induction vs generalizing i p with
  | nil => rfl
  | cons v vs ih => simp [writeLoadWords, ih]

@[simp] theorem blankMap_windView (n w : Nat) : windView (blankMap n w p) = windView p := by
  induction n generalizing w p with
  | zero => rfl
  | succ n ih => simp [blankMap, ih]

@[simp] theorem releaseInHold_windView : windView (releaseInHold p) = windView p := by
  unfold releaseInHold
  split <;> simp

@[simp] theorem failTable_windView (c : LoadCtx) : windView (failTable c p) = windView p := by
  unfold failTable
  split <;> simp

@[simp] theorem setLastLoad_windView (t : Table) (o : LoadOutcome) : windView (setLastLoad t o p) = windView p := rfl

@[simp] theorem endLoadOnError_windView (c : LoadCtx) (e : LoadError) :
    windView (endLoadOnError c e p) = windView p := by simp [endLoadOnError]

@[simp] theorem abortLoadAtReset_windView : windView (abortLoadAtReset p) = windView p := by
  simp only [abortLoadAtReset]
  split
  · split
    · rw [setLastLoad_windView]
      split
      case h_4 => exact foldl_windView p (fun q i => writeWord_windView q _ _) _
      all_goals simp
    · rfl
  · rfl

@[simp] theorem clampConfigField_windView (f : Nat) (x : Nat × Part) :
    windView (clampConfigField f x).2 = windView x.2 := by
  have hread := checkedRead_windView x.2 .check f
  simp only [clampConfigField]
  repeat' split
  all_goals simp_all

@[simp] theorem allPresent_windView (ts : List Nat) : windView (allPresent ts p).2 = windView p := by
  induction ts generalizing p with
  | nil => rfl
  | cons t ts ih =>
    have hread := readTurbineA_windView p .check t
    unfold allPresent
    split <;> simp_all

@[simp] theorem checkConfig_windView : windView (checkConfig p).2 = windView p := by
  simp only [checkConfig]
  repeat' split
  all_goals simp

@[simp] theorem endConfigLoad_windView : windView (endConfigLoad p).2 = windView p := by
  simp only [endConfigLoad]
  repeat' split
  all_goals simp

@[simp] theorem clampTurbine_windView (t : Nat) (x : Pass × Part) : windView (clampTurbine t x).2 = windView x.2 := by
  have hreadA := readTurbineA_windView x.2 .check t
  have hreadB := fun q => readTurbineB_windView q .check t
  grind [clampTurbine, writeWord_windView]

@[simp] theorem readReferences_windView (rd : Reader) : windView (readReferences rd p).2 = windView p := by
  simp [readReferences]

@[simp] theorem checkTurbines_windView : windView (checkTurbines p).2 = windView p := by
  simp only [checkTurbines]
  repeat' split
  all_goals simp

@[simp] theorem putClamped_windView (n page w : Nat) (v : Word) (x : Pass × Part) :
    windView (putClamped n page w v x).2 = windView x.2 := by
  unfold putClamped
  split <;> simp

@[simp] theorem clampSpacing_windView (n w : Nat) (x : Pass × Part) :
    windView (clampSpacing n w x).2 = windView x.2 := by
  have hread := readPageWord_windView x.2 .check n w
  unfold clampSpacing
  split <;> simp_all

@[simp] theorem clampTimes_windView (n w : Nat) (x : Pass × Part) : windView (clampTimes n w x).2 = windView x.2 := by
  have hread := readPageWord_windView x.2 .check n w
  unfold clampTimes
  split <;> simp_all

@[simp] theorem clampRow_windView (n r : Nat) (x : Pass × Part) : windView (clampRow n r x).2 = windView x.2 := by
  have hread := readPageWord_windView x.2 .check n (rowWord r 0)
  unfold clampRow
  split <;> simp_all

@[simp] theorem clampPage_windView (n : Nat) : windView (clampPage n p).2 = windView p := by
  have hread := readPageWord_windView p .check n 0
  unfold clampPage
  repeat' split
  all_goals simp_all

@[simp] theorem readPageRun_windView (n k w : Nat) : windView (readPageRun n k w p).2 = windView p := by
  induction k generalizing w p with
  | zero => rfl
  | succ k ih =>
    have hread := readPageWord_windView p .check n w
    have hrest := fun q => ih q (w + 1)
    grind [readPageRun]

@[simp] theorem readRows_windView (n k r : Nat) : windView (readRows n k r p).2 = windView p := by
  induction k generalizing r p with
  | zero => rfl
  | succ k ih =>
    unfold readRows
    split
    · next q hhead => exact windView_of_read hhead (readPageWord_windView ..)
    · next v q hhead =>
      have hq : windView q = windView p := windView_of_read hhead (readPageWord_windView ..)
      rw [← hq]
      split
      · rfl
      · split
        · next q₁ hms => exact windView_of_read hms (readPageRun_windView ..)
        · next ms q₁ hms =>
          have hq₁ : windView q₁ = windView q := windView_of_read hms (readPageRun_windView ..)
          rw [← hq₁]
          split
          · next q₂ hfs => exact windView_of_read hfs (readPageRun_windView ..)
          · next fs q₂ hfs =>
            have hq₂ : windView q₂ = windView q₁ := windView_of_read hfs (readPageRun_windView ..)
            have hrest := ih q₂ (r + 1)
            rw [← hq₂]
            split <;> simp_all

@[simp] theorem structuralCheck_windView (n : Nat) : windView (structuralCheck n p).2 = windView p := by
  unfold structuralCheck
  split
  · next q hhead => exact windView_of_read hhead (readPageWord_windView ..)
  · next v q hhead =>
    have hq : windView q = windView p := windView_of_read hhead (readPageWord_windView ..)
    have hrows := readRows_windView q n v.toNat 0
    rw [← hq]
    repeat' split
    all_goals simp_all

@[simp] theorem needsRow_windView (t : Nat) : windView (needsRow t p).2 = windView p := by
  have hreadA := readTurbineA_windView p .check t
  have hreadB := fun q => readTurbineB_windView q .check t
  grind [needsRow]

@[simp] theorem membershipCheck_windView (members ts : List Nat) :
    windView (membershipCheck members ts p).2 = windView p := by
  induction ts generalizing p with
  | nil => rfl
  | cons t ts ih => simp [membershipCheck, ih]

@[simp] theorem checkPage_windView (n : Nat) : windView (checkPage n p).2 = windView p := by
  have hrows := structuralCheck_windView p n
  unfold checkPage
  split
  · simp_all
  · simp_all
  · split <;> simp_all

@[simp] theorem endPageLoad_windView (n : Nat) : windView (endPageLoad n p).2 = windView p := by
  simp only [endPageLoad]
  split <;> simp

@[simp] theorem failRevalidation_windView (n : Nat) : windView (failRevalidation n p) = windView p := by
  unfold failRevalidation
  split <;> simp

@[simp] theorem passRevalidation_windView (n : Nat) : windView (passRevalidation n p) = windView p := by
  unfold passRevalidation
  split <;> simp

@[simp] theorem revalidatePage_windView (n : Nat) : windView (revalidatePage n p) = windView p := by
  have hcheck := checkPage_windView p n
  unfold revalidatePage
  repeat' split
  all_goals simp_all

@[simp] theorem recoverFences_windView : windView (recoverFences p) = windView p := by
  have hreturn : ∀ (q : Part) (t : Nat),
      windView (if fenceMark q t then modifyTurbine t returnTurbine q else q) = windView q := by
    intro q t
    split <;> simp
  simp [recoverFences, hreturn]

@[simp] theorem adoptTurbines_windView : windView (adoptTurbines p) = windView p := by
  simp [adoptTurbines, handPageChanges, revalidatePages]

@[simp] theorem endTurbineLoad_windView : windView (endTurbineLoad p).2 = windView p := by
  simp only [endTurbineLoad]
  repeat' split
  all_goals simp

@[simp] theorem endLoad_windView (c : LoadCtx) : windView (endLoad c p).2 = windView p := by
  unfold endLoad
  split <;> simp

end

end Sys2Proof.Machine
end

section
/-! PROOFS. The smoothing of the wind (R26, R27), WRU's stop (R23, R32), and what each command does to the
accumulators. -/

namespace Sys2Proof.Machine

/-! ### What an event may do to the accumulators -/

/-- The accumulators are those of before, or those of a cold reset. -/
def AccsKept (p q : Part) : Prop := q.wru.accs = p.wru.accs ∨ q.wru.accs = Wru.cold.accs

/-- R23: WRU does not run, and its state is that of a cold reset. -/
def WruStopped (p : Part) : Prop := p.wru.accs = Wru.cold.accs ∧ wruRuns p = false

theorem AccsKept.trans {p q r : Part} (hq : AccsKept p q) (hr : AccsKept q r) : AccsKept p r := by
  rcases hr with hr | hr
  · rcases hq with hq | hq
    · exact .inl (hr.trans hq)
    · exact .inr (hr.trans hq)
  · exact .inr hr

theorem AccsKept.of_windView {p q : Part} (h : windView q = windView p) : AccsKept p q :=
  .inl (accs_eq_of_windView h)

theorem AccsKept.of_stopped {p q : Part} (h : WruStopped q) : AccsKept p q := .inr h.1

/-- Whether WRU runs is a matter of the mode and of the config block's validity. -/
theorem wruRuns_congr {p q : Part} (hmode : q.ma.mode = p.ma.mode) (hconfig : q.tm.config = p.tm.config) :
    wruRuns q = wruRuns p := by
  simp [wruRuns, sequencing, hmode, hconfig]

theorem sequencing_of_wruStopped {p : Part} (h : WruStopped p) : sequencing p = false := by
  have hruns := h.2
  simp only [wruRuns, Bool.or_eq_false_iff] at hruns
  exact hruns.1

/-! ### WRU's stop (R23, R32, R159) -/

@[simp] theorem stopWru_wru (p : Part) : (stopWru p).wru = Wru.cold := rfl

@[simp] theorem wruRuns_stopWru (p : Part) : wruRuns (stopWru p) = wruRuns p := by
  simp only [stopWru]
  split <;> rfl

theorem wruStopped_stopWru {p : Part} (h : wruRuns p = false) : WruStopped (stopWru p) :=
  ⟨by rw [stopWru_wru], by rw [wruRuns_stopWru, h]⟩

/-- R23: the guard at the end of an event stops WRU exactly where it does not run. -/
theorem guardWru_cases (p : Part) : guardWru p = p ∨ WruStopped (guardWru p) := by
  unfold guardWru
  split
  · exact .inl rfl
  · next h => exact .inr (wruStopped_stopWru (by simpa using h))

theorem WruStopped.guard {p : Part} (h : WruStopped p) : WruStopped (guardWru p) := by
  simpa [guardWru, h.2] using wruStopped_stopWru h.2

theorem loseSector_tm (p : Part) : (loseSector p).tm = p.tm := by
  unfold loseSector
  split <;> simp

/-- R32: in THROUGH the accumulators stay as they are, unless the config block is not VALID. -/
theorem wruToThrough_cases {p : Part} (h : p.ma.mode = .through) :
    windView (wruToThrough p) = windView p ∨ WruStopped (wruToThrough p) := by
  simp only [wruToThrough]
  split
  · left
    split <;> simp
  · next hconfig =>
    right
    apply wruStopped_stopWru
    rw [wruRuns, Bool.or_eq_false_iff, loseSector_tm]
    refine ⟨?_, decide_eq_false hconfig⟩
    rw [sequencing, mode_eq_of_windView (loseSector_windView _), mode_eq_of_windView (writePendingEntry_windView _),
      Part.onWru_ma, h]
    rfl

theorem clearSequencing_windView (p : Part) : windView (clearSequencing p) = windView p := by simp [clearSequencing]

/-- R158, R159: the return to THROUGH keeps the accumulators or stops WRU. -/
theorem returnToThrough_cases (c : ReleaseCause) (p : Part) :
    (returnToThrough c p).wru.accs = p.wru.accs ∨ WruStopped (returnToThrough c p) := by
  simp only [returnToThrough]
  generalize hq : clearSequencing _ = q
  have hview : windView q = (p.wru.accs, Mode.through) := by
    rw [← hq]
    simp only [clearSequencing_windView, onMs_windView, onRau_windView, forwardMoves_windView, noStartsDue_windView,
      abandonBursts_windView]
    rfl
  have hmode : q.ma.mode = .through := congrArg Prod.snd hview
  have hlast : ∀ r : Part, (if c = .disengage then r else raiseAlert .releasedToThrough .nothing r).wru = r.wru ∧
      wruRuns (if c = .disengage then r else raiseAlert .releasedToThrough .nothing r) = wruRuns r := by
    intro r
    split
    · exact ⟨rfl, rfl⟩
    · exact ⟨raiseAlert_wru .., wruRuns_congr (raiseAlert_mode ..) (by rw [raiseAlert_tm])⟩
  rw [WruStopped, (hlast _).1, (hlast _).2]
  rcases wruToThrough_cases hmode with h | h
  · exact .inl ((accs_eq_of_windView h).trans (congrArg Prod.fst hview))
  · exact .inr h

/-! ### The end of an event -/

/-- The accumulators are kept, or WRU has stopped and stays so. -/
def KeptOrStopped (p q : Part) : Prop := q.wru.accs = p.wru.accs ∨ WruStopped q

theorem KeptOrStopped.accsKept {p q : Part} (h : KeptOrStopped p q) : AccsKept p q := h.imp_right (·.1)

theorem keptOrStopped_carryOutRelease (p : Part) : KeptOrStopped p (carryOutRelease p) := by
  unfold carryOutRelease
  split
  · exact .inl rfl
  · simp only
    split
    · exact returnToThrough_cases _ _
    · exact .inl rfl

/-- R159, R23: of what ends an event only a release due, and the guard, bear on the accumulators. -/
theorem keptOrStopped_settleEvent (p : Part) : KeptOrStopped p (settleEvent p) := by
  have hq : windView (settleStarts eventFreeings (completeRounds eventRounds p)) = windView p := by simp
  rw [KeptOrStopped, ← accs_eq_of_windView hq]
  exact keptOrStopped_carryOutRelease _

theorem WruStopped.finish {p : Part} (h : WruStopped p) : WruStopped (finishEvent p) := by
  simpa [finishEvent, sequencing_of_wruStopped h] using h.guard

theorem keptOrStopped_finishEvent (p : Part) : KeptOrStopped p (finishEvent p) := by
  have hsettle : KeptOrStopped p (if sequencing p then settleEvent p else p) := by
    split
    · exact keptOrStopped_settleEvent p
    · exact .inl rfl
  unfold finishEvent
  rcases hsettle with h | h
  · rw [KeptOrStopped, ← h]
    exact (guardWru_cases _).imp_left fun hg => by rw [hg]
  · exact .inr h.guard

theorem KeptOrStopped.finish {p q : Part} (h : KeptOrStopped p q) : KeptOrStopped p (finishEvent q) := by
  rcases h with h | h
  · rw [KeptOrStopped, ← h]
    exact keptOrStopped_finishEvent q
  · exact .inr h.finish

theorem AccsKept.finish {p q : Part} (h : AccsKept p q) : AccsKept p (finishEvent q) :=
  h.trans (keptOrStopped_finishEvent q).accsKept

/-- An event whose own steps leave the wind alone. -/
theorem AccsKept.finish_of_windView {p q : Part} (h : windView q = windView p) : AccsKept p (finishEvent q) :=
  (AccsKept.of_windView h).finish

/-! ### Modes and resets -/

@[simp] theorem loadSilence_windView (p : Part) : windView (loadSilence p) = windView p := by simp [loadSilence]

@[simp] theorem enterHold_accs (c : HoldCause) (p : Part) : (enterHold c p).wru.accs = p.wru.accs := by
  simp only [enterHold]
  generalize hq : p.onMa _ = q
  calc _ = q.wru.accs := accs_eq_of_windView (by simp)
    _ = p.wru.accs := by rw [← hq, Part.onMa_wru]

@[simp] theorem carryOutLeave_accs (p : Part) : (carryOutLeave p).wru.accs = p.wru.accs := by
  simp only [carryOutLeave]
  generalize hq : p.onMa _ = q
  calc _ = q.wru.accs := accs_eq_of_windView (by simp)
    _ = p.wru.accs := by rw [← hq, Part.onMa_wru]

@[simp] theorem leaveHold_accs (p : Part) : (leaveHold p).wru.accs = p.wru.accs := by
  unfold leaveHold
  split <;> simp

@[simp] theorem takeEngage_accs (n : Nat) (p : Part) : (takeEngage n p).wru.accs = p.wru.accs := by
  simp only [takeEngage]
  generalize hq : p.onMa _ = q
  calc _ = q.wru.accs := accs_eq_of_windView (by simp [engageTurbines])
    _ = p.wru.accs := by rw [← hq, Part.onMa_wru]

@[simp] theorem cutFrames_windView (c f : Bool) (p : Part) : windView (cutFrames c f p) = windView p := by
  simp [windView]

/-- R38, R161. -/
@[simp] theorem warmReset_accs (p : Part) : (warmReset p).wru.accs = Wru.cold.accs := by
  have hcold : ∀ q : Part, (warmBlocks q).wru = Wru.cold := fun q => rfl
  simp only [warmReset]
  split
  · rw [hcold]
  · rw [Part.onMa_wru, hcold]
  · rw [accs_eq_of_windView (buildRows_windView ..), accs_eq_of_windView (setPageValidity_windView ..), Part.onMa_wru,
      hcold]

/-- R152, R156: an arrival at the C port ends an event at most. -/
theorem accsKept_arrival (p : Part) : AccsKept p (arrival p) := by
  unfold arrival
  split
  · exact .inl rfl
  · exact .finish_of_windView (loadSilence_windView p)
  · split
    · exact .finish (.inl (leaveHold_accs p))
    · exact .inl rfl

/-! ### Management requests -/

section
variable (src : Addr) (tag : BitVec 16) (p : Part)

@[simp] theorem answerOk_windView (values : List (List Byte)) : windView (answerOk src tag values p) = windView p := rfl
@[simp] theorem answerBusy_windView : windView (answerBusy src tag p) = windView p := rfl
@[simp] theorem answerRefused_windView (reason : Nat) : windView (answerRefused src tag reason p) = windView p := rfl
@[simp] theorem answerFailed_windView (reason : Nat) (values : List (List Byte)) :
    windView (answerFailed src tag reason values p) = windView p := rfl

/-- An answer that closes an event leaves the accumulators as the event has made them. -/
theorem AccsKept.answered {src tag p} {q : Part} (values : List (List Byte)) (h : AccsKept p q) :
    AccsKept p (answerOk src tag values q) := h

theorem accsKept_answerRefused (reason : Nat) : AccsKept p (answerRefused src tag reason p) := .inl rfl

theorem accsKept_needBytes (n : Nat) (fields : List Byte) {g : Part → Part} (h : AccsKept p (g p)) :
    AccsKept p (needBytes n src tag fields g p) := by
  unfold needBytes
  split
  · exact accsKept_answerRefused ..
  · exact h

theorem accsKept_moveReadRequest (fields : List Byte) : AccsKept p (moveReadRequest src tag fields p) := by
  simp only [moveReadRequest]
  split
  · exact accsKept_answerRefused ..
  · exact .finish_of_windView (by simp)

@[simp] theorem setLatch_windView (r : Nat) (l : Option Latch) : windView (setLatch r l p) = windView p := rfl

@[simp] theorem latchRow_windView (r : Nat) : windView (latchRow p r) = windView p := by
  unfold latchRow
  split <;> simp

theorem accsKept_snapshotRequest (fields : List Byte) : AccsKept p (snapshotRequest src tag fields p) := by
  unfold snapshotRequest
  split
  · exact accsKept_answerRefused ..
  · exact .of_windView (by simp)

theorem accsKept_snapshotReadRequest (fields : List Byte) : AccsKept p (snapshotReadRequest src tag fields p) := by
  simp only [snapshotReadRequest]
  exact .answered _ (.of_windView (foldl_windView p (fun q r => setLatch_windView q r none) _))

@[simp] theorem markLoading_windView (t : Table) : windView (markLoading t p) = windView p := by
  unfold markLoading
  split <;> simp

theorem accsKept_beginLoad (t : Table) (first count : Nat) : AccsKept p (beginLoad src tag t first count p) := by
  unfold beginLoad
  repeat' split
  case isFalse.isFalse.isFalse.isFalse => exact .finish_of_windView (by simp)
  all_goals exact .inl rfl

theorem accsKept_loadBeginRequest (fields : List Byte) : AccsKept p (loadBeginRequest src tag fields p) := by
  unfold loadBeginRequest
  split
  · exact accsKept_answerRefused ..
  · exact accsKept_beginLoad ..

theorem accsKept_loadDataRequest (fields : List Byte) : AccsKept p (loadDataRequest src tag fields p) := by
  unfold loadDataRequest
  split
  · split
    · exact accsKept_answerRefused ..
    · simp only
      split
      · exact .finish_of_windView (by simp)
      · split
        · exact .finish_of_windView (by simp)
        · exact .finish_of_windView (by simp [takeLoadData])
  · exact accsKept_answerRefused ..

theorem accsKept_deferredLeave : AccsKept p (deferredLeave p) := by
  unfold deferredLeave
  split
  · exact .finish (.inl (carryOutLeave_accs p))
  · exact .inl rfl

@[simp] theorem answerOutcome_windView (o : LoadOutcome) : windView (answerOutcome src tag o p) = windView p := by
  unfold answerOutcome
  split <;> simp

theorem accsKept_closeLoad (crc : BitVec 16) (c : LoadCtx) : AccsKept p (closeLoad src tag crc c p) := by
  simp only [closeLoad]
  split
  · exact .finish_of_windView (by simp)
  · split
    · exact .finish_of_windView (by simp)
    · exact .trans (.finish_of_windView (by simp)) (accsKept_deferredLeave _)

theorem accsKept_loadEndRequest (fields : List Byte) : AccsKept p (loadEndRequest src tag fields p) := by
  unfold loadEndRequest
  split
  · exact accsKept_answerRefused ..
  · split
    · exact .of_windView (by simp)
    · exact accsKept_closeLoad ..

theorem accsKept_loadAbortRequest : AccsKept p (loadAbortRequest src tag p) := by
  unfold loadAbortRequest
  split
  · exact accsKept_answerRefused ..
  · exact .finish_of_windView (by simp)

@[simp] theorem engagePage_windView : windView (engagePage p).2 = windView p := by
  unfold engagePage
  split
  · rfl
  · simp only
    split <;> simp

theorem accsKept_engageRequest : AccsKept p (engageRequest src tag p) := by
  unfold engageRequest
  repeat' split
  · exact .inl rfl
  · exact accsKept_answerRefused ..
  · exact accsKept_answerRefused ..
  · exact accsKept_answerRefused ..
  · next q hpage =>
    have hq : windView q = windView p := windView_of_read hpage (engagePage_windView p)
    exact .finish_of_windView (by simp [hq])
  · next n q hpage =>
    have hq : AccsKept p q := .of_windView (windView_of_read hpage (engagePage_windView p))
    have hguard : AccsKept q (guardWru q) := (guardWru_cases q).imp (fun h => by rw [h]) (·.1)
    exact ((hq.trans hguard).trans (.inl (takeEngage_accs n _))).answered [] |>.finish

theorem accsKept_disengageRequest : AccsKept p (disengageRequest src tag p) := by
  unfold disengageRequest
  split
  · exact .finish (.answered [] ((returnToThrough_cases .disengage p).imp_right (·.1)))
  · exact .inl rfl

theorem accsKept_holdRequest : AccsKept p (holdRequest src tag p) := by
  unfold holdRequest
  split
  · exact accsKept_answerRefused ..
  · exact .finish (.answered [] (.inl (enterHold_accs .command p)))
  · exact .inl rfl

theorem accsKept_releaseRequest : AccsKept p (releaseRequest src tag p) := by
  unfold releaseRequest
  split
  · exact accsKept_answerRefused ..
  · exact .inl rfl
  · split
    · exact .inl rfl
    · exact .finish (.answered [] (.inl (leaveHold_accs p)))

theorem accsKept_clearRequest (fields : List Byte) : AccsKept p (clearRequest src tag fields p) := by
  simp only [clearRequest]
  repeat' split
  all_goals exact .inl rfl

theorem accsKept_resetRequest (c f : Bool) : AccsKept p (resetRequest src tag c f p) :=
  .finish (.answered [] (.inr (warmReset_accs _)))

theorem accsKept_takeRequest {g : Part → Part} (h : ∀ q, AccsKept q (g q)) : AccsKept p (takeRequest g p) := by
  unfold takeRequest
  split
  · exact h p
  · exact .inl rfl

/-- R185: whatever kind a request has, it stops WRU or resets it, or leaves the accumulators alone. -/
theorem accsKept_requestOf (kind : Byte) (fields : List Byte) : AccsKept p (requestOf kind src tag fields p) := by
  unfold requestOf
  split
  · exact .inl rfl
  · exact .inl rfl
  · exact accsKept_needBytes _ _ _ _ _ (accsKept_moveReadRequest ..)
  · exact accsKept_needBytes _ _ _ _ _ (accsKept_snapshotRequest ..)
  · exact accsKept_needBytes _ _ _ _ _ (accsKept_snapshotReadRequest ..)
  · exact accsKept_needBytes _ _ _ _ _ (accsKept_loadBeginRequest ..)
  · exact accsKept_loadDataRequest ..
  · exact accsKept_needBytes _ _ _ _ _ (accsKept_loadEndRequest ..)
  · exact accsKept_loadAbortRequest ..
  · exact accsKept_engageRequest ..
  · exact accsKept_disengageRequest ..
  · exact accsKept_holdRequest ..
  · exact accsKept_releaseRequest ..
  · exact accsKept_needBytes _ _ _ _ _ (accsKept_clearRequest ..)
  · exact accsKept_resetRequest ..
  · exact accsKept_answerRefused ..

theorem accsKept_takeMreq (payload : List Byte) : AccsKept p (takeMreq src payload p) := by
  unfold takeMreq
  split
  · exact .inl rfl
  · exact accsKept_takeRequest _ fun q => accsKept_requestOf ..

end

/-! ### Frames at the ports -/

@[simp] theorem countReceived_windView (port : Port) (p : Part) : windView (countReceived port p) = windView p := by
  simp [countReceived]

/-- A request's arrival at the C port. -/
theorem accsKept_requestAtC {g : Part → Part} (p : Part) (h : ∀ q, AccsKept q (g q)) :
    AccsKept p (requestAtC g p) :=
  .trans (.trans (.of_windView (countReceived_windView .c p)) (accsKept_takeRequest _ h)) (accsKept_arrival _)

theorem accsKept_aimAtC (f : Frame) (p : Part) : AccsKept p (aimAtC f p) := by
  unfold aimAtC
  split
  · split
    · exact .inl rfl
    · exact .finish_of_windView (by simp [countDiverted])
  · have hdiv := diversion_windView p f.dst
    split
    · next t r q hdiverted =>
      have hq : windView q = windView p := windView_of_read hdiverted hdiv
      split
      · exact .finish_of_windView (by simp [countAimMalformed, hq])
      · exact .finish_of_windView (by simp [countDiverted, hq])
    · next q hdiverted =>
      have hq : windView q = windView p := windView_of_read hdiverted hdiv
      exact .finish_of_windView (by simp [countForwardedThrough, hq])

theorem accsKept_classifyC (f : Frame) (p : Part) : AccsKept p (classifyC f p) := by
  unfold classifyC
  repeat' split
  · exact accsKept_aimAtC f p
  · exact accsKept_takeMreq ..
  · exact .inl rfl
  · exact .of_windView (by simp)

theorem accsKept_receiveC (f : Frame) (p : Part) : AccsKept p (receiveC f p) :=
  .trans (.trans (.of_windView (countReceived_windView .c p)) (accsKept_classifyC f _)) (accsKept_arrival _)

/-- R178: at the F port a frame that is no STATE reaches neither SE, RAU nor WRU. -/
theorem accsKept_receiveF {f : Frame} (p : Part) (h : f.kind ≠ kindState) : AccsKept p (receiveF f p) := by
  simp only [receiveF, classifyF, h, if_false]
  split
  · exact .of_windView (by simp)
  · exact .of_windView (by simp)

theorem accsKept_reportDeparture (q : QFrame) (p : Part) : AccsKept p (reportDeparture q p) := by
  simp only [reportDeparture]
  repeat' split
  all_goals exact .inl rfl

theorem accsKept_frameLeft (port : Port) (p : Part) : AccsKept p (frameLeft port p) := by
  unfold frameLeft
  split
  · exact .inl rfl
  · exact .of_windView (by simp)
  · simp only
    split
    · exact .trans (.of_windView (by simp)) (accsKept_reportDeparture ..)
    · exact .of_windView (by simp)

/-! ### Smoothing (R26, R27) -/

theorem Wru.accs_eq_iff {w u : Wru} :
    w.accs = u.accs ↔ w.seeded = u.seeded ∧ w.speedAcc = u.speedAcc ∧ w.dirAcc = u.dirAcc := by
  simp [Wru.accs]

theorem Wru.inRange_iff {w : Wru} : w.inRange = true ↔ w.speedAcc ≤ 6400 ∧ w.dirAcc < 57600 := by
  simp [Wru.inRange]

/-- Smoothing reads of WRU's state the accumulators alone. -/
theorem smoothWind_accs_congr {w u : Wru} (v d : Nat) (h : w.accs = u.accs) :
    (smoothWind v d w).accs = (smoothWind v d u).accs := by
  obtain ⟨hseeded, hspeed, hdir⟩ := Wru.accs_eq_iff.mp h
  simp [Wru.accs, smoothWind, smoothSpeed, smoothDirection, hseeded, hspeed, hdir]

theorem smoothSpeed_unseeded {w : Wru} (v : Nat) (h : w.seeded = false) : smoothSpeed w v = 16 * v := by
  simp [smoothSpeed, h]

theorem smoothSpeed_seeded {w : Wru} (v : Nat) (h : w.seeded = true) :
    smoothSpeed w v = w.speedAcc - w.speedAcc / 8 + 2 * v := by simp [smoothSpeed, h]

theorem smoothDirection_unseeded {w : Wru} (d : Nat) (h : w.seeded = false) : smoothDirection w d = 16 * d := by
  simp [smoothDirection, h]

theorem smoothDirection_seeded {w : Wru} (d : Nat) (h : w.seeded = true) :
    (smoothDirection w d : Int) =
      ((w.dirAcc : Int) + (wrapDirection (16 * (d : Int) - w.dirAcc)).tdiv 8) % 57600 := by
  simp only [smoothDirection, h, if_true]
  exact Int.toNat_of_nonneg (Int.emod_nonneg _ (by decide))

theorem wrapDirection_cases (x : Int) :
    wrapDirection x = x ∨ wrapDirection x = x + 57600 ∨ wrapDirection x = x - 57600 := by
  unfold wrapDirection
  split
  · exact .inr (.inl rfl)
  · split
    · exact .inr (.inr rfl)
    · exact .inl rfl

/-- A difference of less than one turn wraps into the half turns to either side; −28800 stays as it is. -/
theorem wrapDirection_range {x : Int} (hlo : -57600 < x) (hhi : x < 57600) :
    -28800 ≤ wrapDirection x ∧ wrapDirection x ≤ 28799 := by
  unfold wrapDirection
  split
  · omega
  · split <;> omega

theorem smoothSpeed_le {w : Wru} {v : Nat} (hv : v ≤ 400) (h : w.speedAcc ≤ 6400) : smoothSpeed w v ≤ 6400 := by
  cases hs : w.seeded
  · rw [smoothSpeed_unseeded v hs]
    omega
  · rw [smoothSpeed_seeded v hs]
    omega

theorem smoothDirection_lt {d : Nat} (w : Wru) (hd : d ≤ 3599) : smoothDirection w d < 57600 := by
  cases hs : w.seeded
  · rw [smoothDirection_unseeded d hs]
    omega
  · have h := smoothDirection_seeded d hs
    omega

theorem smoothWind_inRange {w : Wru} {v d : Nat} (hv : v ≤ 400) (hd : d ≤ 3599) (h : w.inRange = true) :
    (smoothWind v d w).inRange = true :=
  Wru.inRange_iff.mpr ⟨smoothSpeed_le hv (Wru.inRange_iff.mp h).1, smoothDirection_lt w hd⟩

/-- R27: the wrapped difference, and the accumulator moved by an eighth of it. -/
theorem smoothWind_dirAcc_seeded {w : Wru} {d : Nat} (v : Nat) (hd : d ≤ 3599) (hs : w.seeded = true)
    (h : w.inRange = true) :
    ∃ diff : Int, -28800 ≤ diff ∧ diff ≤ 28799 ∧
      (diff = 16 * (d : Int) - w.dirAcc ∨ diff = 16 * (d : Int) - w.dirAcc + 57600 ∨
        diff = 16 * (d : Int) - w.dirAcc - 57600) ∧
      ((smoothWind v d w).dirAcc : Int) = ((w.dirAcc : Int) + diff.tdiv 8) % 57600 := by
  have hacc := (Wru.inRange_iff.mp h).2
  obtain ⟨hlo, hhi⟩ := wrapDirection_range (x := 16 * (d : Int) - w.dirAcc) (by omega) (by omega)
  exact ⟨_, hlo, hhi, wrapDirection_cases _, smoothDirection_seeded d hs⟩

/-- R26, R27: the smoothed values of accumulators in range; the last half tenth of a degree rounds to north. -/
theorem smoothed_seeded {w : Wru} (hs : w.seeded = true) (h : w.inRange = true) :
    smoothedSpeed w = some ((w.speedAcc + 8) / 16) ∧ (w.speedAcc + 8) / 16 ≤ 400 ∧
    smoothedDirection w = some ((w.dirAcc + 8) / 16 % 3600) ∧
    (57592 ≤ w.dirAcc → smoothedDirection w = some 0) := by
  obtain ⟨hspeed, hdir⟩ := Wru.inRange_iff.mp h
  have hdirection : smoothedDirection w = some ((w.dirAcc + 8) / 16 % 3600) := by simp [smoothedDirection, hs]
  refine ⟨by simp [smoothedSpeed, hs], by omega, hdirection, fun hnorth => ?_⟩
  rw [hdirection, Option.some_inj]
  omega

/-! ### A report at WRU -/

/-- R25: stage 2 alone writes the accumulators. -/
theorem usableStages_accs (v d : Nat) (p : Part) : (usableStages v d p).wru.accs = (smoothWind v d p.wru).accs := by
  simp only [usableStages]
  have hgust : (gustTest v p).wru.accs = p.wru.accs := accs_eq_of_windView (gustTest_windView p v)
  generalize hq : (gustTest v p).onWru (smoothWind v d) = q
  calc _ = q.wru.accs := by
        apply accs_eq_of_windView
        rw [planCheck_windView, trackSector_windView]
        split <;> simp
    _ = (smoothWind v d (gustTest v p).wru).accs := by rw [← hq, Part.onWru_wru]
    _ = (smoothWind v d p.wru).accs := smoothWind_accs_congr v d hgust

theorem wruReport_accs {rep : Report} {p : Part} (hruns : wruRuns p = true) (husable : usableReport rep = true) :
    (wruReport rep p).wru.accs = (smoothWind rep.speed rep.direction p.wru).accs := by
  simp [wruReport, hruns, husable, usableStages_accs]

theorem wruReport_of_not_runs {p : Part} (rep : Report) (h : wruRuns p = false) : wruReport rep p = p := by
  simp [wruReport, h]

/-! ### STATE (R178) -/

/-- In THROUGH a report does nothing at RAU. -/
theorem KeptOrStopped.rauReport {p q : Part} (t : Nat) (rep : Report) (h : KeptOrStopped p q) :
    KeptOrStopped p (rauReport t rep q) := by
  rcases h with h | h
  · exact .inl ((accs_eq_of_windView (rauReport_windView q t rep)).trans h)
  · right
    simpa [Machine.rauReport, sequencing_of_wruStopped h] using h

/-- The accumulators have taken a usable report. -/
def AccsSmoothed (rep : Report) (p q : Part) : Prop :=
  usableReport rep = true ∧ q.wru.accs = (smoothWind rep.speed rep.direction p.wru).accs

/-- R23: a WRU that an earlier copy's event has stopped takes no report. -/
theorem KeptOrStopped.wruReport_cases {p q : Part} (rep : Report) (h : KeptOrStopped p q) :
    AccsKept p (finishEvent (wruReport rep q)) ∨ AccsSmoothed rep p (finishEvent (wruReport rep q)) := by
  rcases h with h | h
  · by_cases htaken : wruRuns q = true ∧ usableReport rep = true
    · have hsmooth : (wruReport rep q).wru.accs = (smoothWind rep.speed rep.direction p.wru).accs :=
        (wruReport_accs htaken.1 htaken.2).trans (smoothWind_accs_congr _ _ h)
      rcases keptOrStopped_finishEvent (wruReport rep q) with hlast | hlast
      · exact .inr ⟨htaken.2, hlast.trans hsmooth⟩
      · exact .inl (.of_stopped hlast)
    · have hleft : wruReport rep q = q := by simpa [wruReport] using fun hr hu => absurd ⟨hr, hu⟩ htaken
      rw [hleft]
      exact .inl (.finish (.inl h))
  · rw [wruReport_of_not_runs rep h.2]
    exact .inl (.of_stopped h.finish)

theorem copyState_cases (t : Nat) (rep : Report) (p : Part) :
    AccsKept p (copyState t rep p) ∨ AccsSmoothed rep p (copyState t rep p) := by
  simp only [copyState]
  have hse : KeptOrStopped p (seReport t rep (namedReference .ti t p).2) := .inl (accs_eq_of_windView (by simp))
  have hrau := ((hse.finish).rauReport t rep).finish
  split
  · exact hrau.wruReport_cases rep
  · exact .inl hrau.accsKept

theorem receiveF_state_cases (dst src : Addr) (l : List Byte) (p : Part) :
    let q := receiveF { dst := dst, src := src, kind := kindState, payload := l } p
    AccsKept p q ∨ AccsSmoothed (reportOf l) p q := by
  simp only [receiveF, classifyF, stateAtF, if_true]
  generalize hr : forwardFrame .f _ _ = r
  have hview : windView r = windView p := by rw [← hr]; simp
  split
  · have hmap := mapAddress_windView r src
    split
    · next t q hmapped =>
      have hq : q.wru.accs = p.wru.accs := accs_eq_of_windView ((windView_of_read hmapped hmap).trans hview)
      rw [AccsKept, AccsSmoothed, ← hq, ← smoothWind_accs_congr _ _ hq]
      exact copyState_cases t (reportOf l) q
    · next q hmapped => exact .inl (.finish_of_windView ((windView_of_read hmapped hmap).trans hview))
  · exact .inl (.of_windView (by simp [hview]))

/-! ### The other commands -/

theorem accsKept_ite {p q : Part} {P : Prop} [Decidable P] (h : AccsKept p q) : AccsKept p (if P then q else p) := by
  split
  · exact h
  · exact .inl rfl

theorem accsKept_receiveAt {f : Frame} {port : Port} (p : Part) (h : plainFrame port f = true) :
    AccsKept p (receiveAt port f p) := by
  cases port with
  | c => exact accsKept_receiveC f p
  | f =>
    simp only [plainFrame, Bool.and_eq_true, decide_eq_true_eq] at h
    exact accsKept_receiveF p h.1

theorem accsKept_receiveBytes {bytes : List Byte} (port : Port) (p : Part) (h : failsReceive bytes = true) :
    AccsKept p (receiveBytes port bytes p) := by
  unfold failsReceive at h
  unfold receiveBytes
  split
  · exact .of_windView (by simp)
  · exact .of_windView (by simp)
  · next f hvalid => simp [hvalid] at h

section
variable (p : Part)

theorem accsKept_handForward : AccsKept p (handForward p) := by
  unfold handForward
  split
  · exact .inl rfl
  · exact accsKept_ite (.of_windView (by simp))

theorem accsKept_grantStep : AccsKept p (grantStep p) := by
  unfold grantStep
  split
  · exact .inl rfl
  · exact .finish_of_windView (by simp)

theorem accsKept_handAnswer : AccsKept p (handAnswer p) := by
  unfold handAnswer
  split
  · exact .inl rfl
  · exact accsKept_ite (.of_windView (by simp [insertParts]))

theorem accsKept_grantBursts : AccsKept p (grantBursts p) := by
  unfold grantBursts
  exact .finish_of_windView (by simp)

theorem accsKept_opening : AccsKept p (finishEvent (grantOpening p)) := .finish_of_windView (by simp [grantOpening])

theorem accsKept_arbiterRun : AccsKept p (arbiterRun p) := .finish_of_windView (by simp)

theorem accsKept_timeoutTurbine (t : Nat) : AccsKept p (timeoutTurbine t p) := by
  unfold timeoutTurbine
  split
  · exact accsKept_ite (.finish_of_windView (by simp))
  · exact .inl rfl

theorem accsKept_lockTurbine (t : Nat) : AccsKept p (lockTurbine t p) := by
  unfold lockTurbine
  split
  · exact accsKept_ite (.finish_of_windView (by simp))
  · exact .inl rfl

theorem accsKept_realignRow (r : Nat) : AccsKept p (realignRow r p) := by
  unfold realignRow
  split
  · exact accsKept_ite (.finish_of_windView (by simp))
  · exact .inl rfl

theorem accsKept_roundRow (r : Nat) : AccsKept p (roundRow r p) := by
  unfold roundRow
  split
  · exact accsKept_ite (.finish_of_windView (by simp))
  · exact .inl rfl

theorem accsKept_switchLimit : AccsKept p (switchLimit p) := by
  unfold switchLimit
  split
  · exact accsKept_ite (.finish_of_windView (by simp))
  · exact .inl rfl

theorem accsKept_loadIdle : AccsKept p (loadIdle p) := by
  unfold loadIdle
  split
  · exact accsKept_ite (.finish_of_windView (by simp))
  · exact .inl rfl

@[simp] theorem expireWindow_windView : windView (expireWindow p) = windView p := by simp [expireWindow]
@[simp] theorem freshnessExpired_windView : windView (freshnessExpired p) = windView p := by simp [freshnessExpired]
@[simp] theorem gustExpired_windView : windView (gustExpired p) = windView p := by simp [gustExpired]

@[simp] theorem scrubMapWord_windView (w : Nat) : windView (scrubMapWord w p) = windView p := by
  have hread := checkedRead_windView p .scrub (1952 + w)
  unfold scrubMapWord
  split <;> simp_all

@[simp] theorem scrubWord_windView (a : Nat) : windView (scrubWord a p) = windView p := by
  unfold scrubWord
  split
  · simp
  · split <;> simp
  · simp [scrubPageWord]
  · simp

@[simp] theorem scrubStep_windView : windView (scrubStep p) = windView p := by simp [scrubStep]

end

theorem accsKept_exec {c : Instr} {s t : State} (hwf : c.wf = true) (hstate : ∀ dst src l, c ≠ .state dst src l)
    (h : exec c s = .next t) : AccsKept s.part t.part := by
  cases c <;> obtain rfl := Host.Outcome.next.inj h
  all_goals dsimp only
  case state => exact absurd rfl (hstate _ _ _)
  case coldReset => exact .inr rfl
  case droppedFrame port bytes => exact accsKept_receiveBytes port _ hwf
  case forwardedFrame port frame => exact accsKept_receiveAt _ (Bool.and_eq_true_iff.mp hwf).1
  case aim | mreqDroppedBroadcast => exact accsKept_receiveC _ _
  case mreqDroppedAtF => exact accsKept_receiveF _ (by simp [kindMreq, kindState])
  case mreqMalformed src payload =>
    exact .trans (.trans (.of_windView (countReceived_windView .c _)) (accsKept_takeMreq src _ payload))
      (accsKept_arrival _)
  case status | errorRead => exact accsKept_requestAtC _ fun _ => .inl rfl
  case moveRead =>
    exact accsKept_requestAtC _ fun _ => accsKept_needBytes _ _ _ _ _ (accsKept_moveReadRequest ..)
  case snapshot =>
    exact accsKept_requestAtC _ fun _ => accsKept_needBytes _ _ _ _ _ (accsKept_snapshotRequest ..)
  case snapshotRead =>
    exact accsKept_requestAtC _ fun _ => accsKept_needBytes _ _ _ _ _ (accsKept_snapshotReadRequest ..)
  case loadBegin =>
    exact accsKept_requestAtC _ fun _ => accsKept_needBytes _ _ _ _ _ (accsKept_loadBeginRequest ..)
  case loadData => exact accsKept_requestAtC _ fun _ => accsKept_loadDataRequest ..
  case loadEnd =>
    exact accsKept_requestAtC _ fun _ => accsKept_needBytes _ _ _ _ _ (accsKept_loadEndRequest ..)
  case loadAbort => exact accsKept_requestAtC _ fun _ => accsKept_loadAbortRequest ..
  case engage => exact accsKept_requestAtC _ fun _ => accsKept_engageRequest ..
  case disengage => exact accsKept_requestAtC _ fun _ => accsKept_disengageRequest ..
  case hold => exact accsKept_requestAtC _ fun _ => accsKept_holdRequest ..
  case release => exact accsKept_requestAtC _ fun _ => accsKept_releaseRequest ..
  case clearStickyFlags | clearSuspectCondition =>
    exact accsKept_requestAtC _ fun _ => accsKept_needBytes _ _ _ _ _ (accsKept_clearRequest ..)
  case reset => exact accsKept_requestAtC _ fun _ => accsKept_resetRequest ..
  case unknownRequestKind => exact accsKept_requestAtC _ fun _ => accsKept_requestOf ..
  case frameSent => exact accsKept_frameLeft ..
  case forwardEntryHandover => exact accsKept_handForward _
  case stepRelease => exact accsKept_grantStep _
  case answerHandover => exact accsKept_handAnswer _
  case burstStart => exact accsKept_grantBursts _
  case opening => exact accsKept_opening _
  case holdUntilReached => exact accsKept_ite (accsKept_arbiterRun _)
  case rowCycleElapsed =>
    exact accsKept_ite (.trans (.of_windView (readConfig_windView ..)) (accsKept_arbiterRun _))
  case holdUntilAgeBound | lastOpeningAgeBound => exact .inl rfl
  case freshnessExpiry => exact accsKept_ite (.of_windView (freshnessExpired_windView _))
  case roundStart | windowEntryExpiry | gustTimerExpiry | excursionExpiry | graceExpiry | settleExpiry | scrub =>
    exact accsKept_ite (.finish_of_windView (by simp))
  case silenceExpiry => exact accsKept_ite (.finish (.inl (enterHold_accs ..)))
  case stepTimeout => exact accsKept_timeoutTurbine ..
  case lockExpiry => exact accsKept_lockTurbine ..
  case realignExpiry => exact accsKept_realignRow ..
  case roundTimerExpiry => exact accsKept_roundRow ..
  case switchLimitExpiry => exact accsKept_switchLimit _
  case loadIdleTimeout => exact accsKept_loadIdle _

theorem exec_state_cases {dst src : Addr} {l : List Byte} {s t : State} (h : exec (.state dst src l) s = .next t) :
    AccsKept s.part t.part ∨ AccsSmoothed (reportOf l) s.part t.part := by
  cases h
  exact receiveF_state_cases dst src l s.part

/-- Settles O12: the figures of one report by arithmetic; for the commands, each but STATE keeps the accumulators or
meets a stop or a reset, and a STATE reaches WRU's stage 2 with them as they were, or finds WRU stopped. -/
theorem smoothingOfTheWind : Obligations.SmoothingOfTheWind := by
  refine ⟨fun w v d hv hd => ⟨rfl, ?seeding, smoothWind_inRange hv hd, ?smoothing⟩, fun w => smoothed_seeded,
    fun rep p hruns husable => Wru.accs_eq_iff.mp (wruReport_accs hruns husable), fun c s t hwf h => ?commands⟩
  case seeding => exact fun hs => ⟨smoothSpeed_unseeded v hs, smoothDirection_unseeded d hs⟩
  case smoothing => exact fun hs hr => ⟨smoothSpeed_seeded v hs, smoothWind_dirAcc_seeded v hd hs hr⟩
  case commands =>
    by_cases hstate : ∃ dst src l, c = .state dst src l
    · obtain ⟨dst, src, l, rfl⟩ := hstate
      rcases exec_state_cases h with hkept | ⟨husable, hsmooth⟩
      · exact hkept.imp Wru.accs_eq_iff.mp fun hcold => .inl (Wru.accs_eq_iff.mp hcold)
      · exact .inr (.inr ⟨dst, src, l, rfl, husable, Wru.accs_eq_iff.mp hsmooth⟩)
    · have hkept := accsKept_exec hwf (fun dst src l hc => hstate ⟨dst, src, l, hc⟩) h
      exact hkept.imp Wru.accs_eq_iff.mp fun hcold => .inl (Wru.accs_eq_iff.mp hcold)

end Sys2Proof.Machine
end

section
/-! PROOFS. The propagation delay and the rows a closing row holds back (R75 to R77, R66, R79). -/

namespace Sys2Proof.Machine

/-! ### The delay and its speed (R75, R76) -/

theorem ceilDiv_le_iff {n d m : Nat} (hd : 0 < d) : ceilDiv n d ≤ m ↔ n ≤ m * d := by
  rw [ceilDiv, Nat.div_le_iff_le_mul hd]
  omega

theorem propagationDelay_le_iff {spacing speed advection m : Nat} (h : 0 < speed * advection) :
    propagationDelay spacing speed advection ≤ m ↔ spacing * 25600 ≤ m * (speed * advection) :=
  ceilDiv_le_iff h

theorem clampNat_eq {lo hi : Nat} (n : Nat) (h : lo ≤ hi) : clampNat lo hi n = max lo (min hi n) := by
  grind [clampNat]

/-- Both ends of the range are met at opposite ends of the inputs: the widest spacing with the slowest wake, and the
closest with the fastest. -/
theorem propagationDelay_range {L v a : Nat} (hL : 50 ≤ L) (hL' : L ≤ 5000) (hv : 30 ≤ v) (hv' : v ≤ 250)
    (ha : 128 ≤ a) (ha' : a ≤ 256) : 20 ≤ propagationDelay L v a ∧ propagationDelay L v a ≤ 33334 := by
  have hslow : 30 * 128 ≤ v * a := Nat.mul_le_mul hv ha
  have hfast : v * a ≤ 250 * 256 := Nat.mul_le_mul hv' ha'
  have hpos : 0 < v * a := by omega
  refine ⟨?_, (propagationDelay_le_iff hpos).mpr (by omega)⟩
  have huncovered : ¬ propagationDelay L v a ≤ 19 := fun hshort => by
    have hcovered := (propagationDelay_le_iff hpos).mp hshort
    omega
  omega

theorem wakeSpeed_of_none {w : Wru} (h : smoothedSpeed w = none) : wakeSpeed w = 30 := by
  simp [wakeSpeed, h]

theorem wakeSpeed_of_some {w : Wru} {v : Nat} (h : smoothedSpeed w = some v) :
    wakeSpeed w = max 30 (min 250 v) := by
  simp [wakeSpeed, h, clampNat_eq]

theorem wakeSpeed_bounds (w : Wru) : 30 ≤ wakeSpeed w ∧ wakeSpeed w ≤ 250 := by
  rcases h : smoothedSpeed w with _ | v
  · rw [wakeSpeed_of_none h]
    decide
  · rw [wakeSpeed_of_some h]
    omega

/-- R4: what a clean config word delivers is clamped. -/
theorem deliveredField_clean {p : Part} (f : Nat) (h : wordsClean p = true) :
    deliveredField p f = clampField f (wordAt p f).value.toNat := by
  simp [deliveredField, wordsClean_at h f]

theorem deliveredField_advection_bounds {p : Part} (h : wordsClean p = true) :
    128 ≤ deliveredField p Field.advection ∧ deliveredField p Field.advection ≤ 256 := by
  have hfield (v : Nat) : clampField Field.advection v = max 128 (min 256 v) := clampNat_eq v (by decide)
  rw [deliveredField_clean _ h, hfield]
  omega

/-! ### Parts that differ in RSQ's rows alone -/

/-- `q` is `p` but for the contents of RSQ's row records. -/
def SameButRows (p q : Part) : Prop :=
  q = { p with rsq := { p.rsq with rows := q.rsq.rows } } ∧ q.rsq.rows.length = p.rsq.rows.length

theorem SameButRows.refl (p : Part) : SameButRows p p := ⟨rfl, rfl⟩

theorem SameButRows.trans {p q s : Part} (hpq : SameButRows p q) (hqs : SameButRows q s) : SameButRows p s := by
  obtain ⟨hq, hqlen⟩ := hpq
  obtain ⟨hs, hslen⟩ := hqs
  refine ⟨?_, hslen.trans hqlen⟩
  rw [hs, hq]

theorem sameButRows_modifyRow (r : Nat) (g : RowRec → RowRec) (p : Part) : SameButRows p (modifyRow r g p) :=
  ⟨rfl, List.length_modify ..⟩

theorem rowAt_modifyRow (r d : Nat) (g : RowRec → RowRec) (p : Part) :
    rowAt (modifyRow r g p) d = (rowAt p d).map fun row => if r = d then g row else row := by
  simp [rowAt, modifyRow, List.getElem?_modify]

theorem rowAt_modifyRow_same {r : Nat} {g : RowRec → RowRec} {p : Part} {row : RowRec} (h : rowAt p r = some row) :
    rowAt (modifyRow r g p) r = some (g row) := by simp [rowAt_modifyRow, h]

theorem rowAt_modifyRow_other {r d : Nat} (g : RowRec → RowRec) (p : Part) (h : d ≠ r) :
    rowAt (modifyRow r g p) d = rowAt p d := by simp [rowAt_modifyRow, h.symm]

theorem modifyRow_congr {r : Nat} {g k : RowRec → RowRec} {p : Part}
    (h : ∀ row, rowAt p r = some row → g row = k row) : modifyRow r g p = modifyRow r k p := by
  have hrows : p.rsq.rows.modify r g = p.rsq.rows.modify r k := by
    refine List.ext_getElem? fun d => ?_
    simp only [List.getElem?_modify]
    by_cases hd : r = d
    · subst hd
      rcases hrow : p.rsq.rows[r]? with _ | row
      · rfl
      · simp [h row hrow]
    · simp [hd]
  simp [modifyRow, Part.onRsq, hrows]

theorem modifyRow_eq_self {r : Nat} {g : RowRec → RowRec} {p : Part}
    (h : ∀ row, rowAt p r = some row → g row = row) : modifyRow r g p = p := by
  rw [modifyRow_congr (k := id) h]
  simp [modifyRow, Part.onRsq, List.modify_id]

/-! ### Feeders over clean words (R11) -/

theorem readActiveRun_clean (rd : Reader) (r : Nat) {p : Part} {n : Nat} (h : wordsClean p = true)
    (hn : p.rsq.activePage = some n) (m k : Nat) :
    readActiveRun rd r m k p = (some ((List.range' k m).map fun j => pageWord p n (rowWord r j)), p) := by
  induction m generalizing k with
  | zero => rfl
  | succ m ih => simp [readActiveRun, readActive_clean rd _ h hn, ih, List.range'_succ, pageWord]

theorem rowFeeders_clean (rd : Reader) (r : Nat) {p : Part} {n : Nat} (h : wordsClean p = true)
    (hn : p.rsq.activePage = some n) :
    (rowFeeders rd r p).1 =
      some ((List.range' 5 (feederCountOf (pageWord p n (rowWord r 0)))).map fun k =>
        (feederIndexOf (pageWord p n (rowWord r k)), spacingOf (pageWord p n (rowWord r k)))) := by
  simp [rowFeeders, readActive_clean rd _ h hn, readActiveRun_clean rd r h hn, pageWord]

theorem rowFeeders_noPage (rd : Reader) (r : Nat) {p : Part} (hn : p.rsq.activePage = none) :
    (rowFeeders rd r p).1 = none := by
  simp [rowFeeders, readActive, hn]

/-- The rows' own records are no part of what lists their feeders. -/
theorem rowFeeders_of_sameButRows {p q : Part} (rd : Reader) (r : Nat) (h : SameButRows p q)
    (hclean : wordsClean p = true) : (rowFeeders rd r q).1 = (rowFeeders rd r p).1 := by
  obtain ⟨hq, -⟩ := h
  rcases hn : p.rsq.activePage with _ | n
  · rw [rowFeeders_noPage rd r hn, hq]
    exact rowFeeders_noPage rd r hn
  · rw [rowFeeders_clean rd r hclean hn, hq]
    exact rowFeeders_clean rd r hclean hn

theorem wordsClean_of_sameButRows {p q : Part} (h : SameButRows p q) (hclean : wordsClean p = true) :
    wordsClean q = true := by
  rw [h.1]
  exact hclean

/-! ### The raising of the rows below (R77) -/

/-- The time a row with spacing `spacing` to a row that closes now is held until. -/
def wakeArrival (spacing : Nat) (p : Part) : Count :=
  p.now + BitVec.ofNat 32 (propagationDelay spacing (wakeSpeed p.wru) (deliveredField p Field.advection))

/-- R77: what the closing of row `r` makes of the record of row `d` below it. -/
def raisedRow (r d : Nat) (p : Part) (row : RowRec) : RowRec :=
  if row.state = .fenced then row
  else
    match (rowFeeders .rsq d p).1.bind fun fs => fs.find? fun f => f.1 == r with
    | some f => { row with holdUntil := laterTime row.holdUntil (wakeArrival f.2 p) }
    | none => row

theorem raisedRow_fenced (r d : Nat) (p : Part) {row : RowRec} (h : row.state = .fenced) :
    raisedRow r d p row = row := by simp [raisedRow, h]

theorem raisedRow_unlisted {r d : Nat} {p : Part} (row : RowRec) {fs : List (Nat × Nat)}
    (hfs : (rowFeeders .rsq d p).1 = some fs) (h : ∀ f ∈ fs, f.1 ≠ r) : raisedRow r d p row = row := by
  have hnone : fs.find? (fun f => f.1 == r) = none := by simpa using h
  simp [raisedRow, hfs, hnone]

theorem raisedRow_listed {r d : Nat} {p : Part} {row : RowRec} {fs : List (Nat × Nat)} {f : Nat × Nat}
    (hfs : (rowFeeders .rsq d p).1 = some fs) (hstate : row.state ≠ .fenced)
    (hf : fs.find? (fun f => f.1 == r) = some f) :
    raisedRow r d p row = { row with holdUntil := laterTime row.holdUntil (wakeArrival f.2 p) } := by
  simp [raisedRow, hstate, hfs, hf]

theorem raisedRow_of_sameButRows {p q : Part} (r d : Nat) (h : SameButRows p q) (hclean : wordsClean p = true) :
    raisedRow r d q = raisedRow r d p := by
  funext row
  have hfeeders := rowFeeders_of_sameButRows .rsq d h hclean
  have harrival (spacing : Nat) : wakeArrival spacing q = wakeArrival spacing p := by
    rw [h.1]
    rfl
  simp only [raisedRow, hfeeders, harrival]

theorem raiseDownstream_clean (r d : Nat) {p : Part} (h : wordsClean p = true) :
    raiseDownstream r (wakeSpeed p.wru) d p = modifyRow d (raisedRow r d p) p := by
  unfold raiseDownstream
  split
  case isTrue hfenced =>
    exact (modifyRow_eq_self fun row hrow => raisedRow_fenced r d p (by simpa [rowIs, hrow] using hfenced)).symm
  case isFalse hunfenced =>
    have hstate (row : RowRec) (hrow : rowAt p d = some row) : row.state ≠ .fenced := by
      simpa [rowIs, hrow] using hunfenced
    have hpart := rowFeeders_part .rsq d h
    rcases hread : rowFeeders .rsq d p with ⟨_ | fs, q⟩
    all_goals obtain rfl : q = p := by simpa [hread] using hpart
    · exact (modifyRow_eq_self fun row _ => by simp [raisedRow, hread]).symm
    · dsimp only
      split
      next f hf =>
        simp only [raiseHoldUntil, readConfig_clean _ _ h]
        refine modifyRow_congr fun row hrow => ?_
        rw [raisedRow_listed (by rw [hread]) (hstate row hrow) hf, wakeArrival]
      next hnone => exact (modifyRow_eq_self fun row _ => by simp [raisedRow, hread, hnone]).symm

/-- R77 over rows `ds`: each takes its own raise, and no row's raise bears on another's. -/
theorem foldl_raiseDownstream (r : Nat) {ds : List Nat} (hnodup : ds.Nodup) {p : Part} (h : wordsClean p = true) :
    let q := ds.foldl (fun p d => raiseDownstream r (wakeSpeed p.wru) d p) p
    SameButRows p q ∧ ∀ d, rowAt q d = if d ∈ ds then (rowAt p d).map (raisedRow r d p) else rowAt p d := by
  induction ds generalizing p with
  | nil => exact ⟨.refl p, by simp⟩
  | cons e ds ih =>
    obtain ⟨he, hnodup⟩ := List.nodup_cons.mp hnodup
    have hsame := sameButRows_modifyRow e (raisedRow r e p) p
    obtain ⟨hrest, hrows⟩ := ih hnodup (wordsClean_of_sameButRows hsame h)
    rw [List.foldl_cons, raiseDownstream_clean r e h]
    refine ⟨hsame.trans hrest, fun d => ?_⟩
    rw [hrows, raisedRow_of_sameButRows r d hsame h]
    by_cases hd : d = e
    · subst hd
      simp [he, rowAt_modifyRow]
    · simp [hd, rowAt_modifyRow_other _ _ hd]

/-! ### A row closes (R77, R79) -/

/-- R79: the record of a row that closes. -/
def closedRecord (row : RowRec) : RowRec := { row with state := .closed, settle := .stopped }

theorem mem_rowsBelow {p : Part} {r d : Nat} : d ∈ rowsBelow p r ↔ d < p.rsq.rows.length ∧ r < d := by
  simp [rowsBelow, rowIndices]

theorem nodup_rowsBelow (p : Part) (r : Nat) : (rowsBelow p r).Nodup := List.nodup_range.filter _

theorem closeRow_eq {p : Part} {r : Nat} {row : RowRec} (hrow : rowAt p r = some row) :
    closeRow r p =
      if row.moved then
        (rowsBelow (modifyRow r closedRecord p) r).foldl
          (fun p d => raiseDownstream r (wakeSpeed p.wru) d p) (modifyRow r closedRecord p)
      else modifyRow r closedRecord p := by
  have hclosed : rowAt (modifyRow r closedRecord p) r = some (closedRecord row) := rowAt_modifyRow_same hrow
  unfold closeRow
  dsimp only
  unfold closedRecord at hclosed ⊢
  rw [hclosed]

/-- R77, R79: the rows once row `r` has closed; those below take their raise when its moved flag is set. -/
theorem closeRow_rows {p : Part} {r : Nat} {row : RowRec} (hclean : wordsClean p = true)
    (hrow : rowAt p r = some row) :
    SameButRows p (closeRow r p) ∧ rowAt (closeRow r p) r = some (closedRecord row) ∧
    ∀ d, d ≠ r → rowAt (closeRow r p) d =
      if row.moved = true ∧ r < d then (rowAt p d).map (raisedRow r d p) else rowAt p d := by
  have hclose := sameButRows_modifyRow r closedRecord p
  rw [closeRow_eq hrow]
  by_cases hmoved : row.moved = true
  · obtain ⟨hraise, hrows⟩ := foldl_raiseDownstream r (nodup_rowsBelow (modifyRow r closedRecord p) r)
      (wordsClean_of_sameButRows hclose hclean)
    rw [if_pos hmoved]
    refine ⟨hclose.trans hraise, ?_, fun d hd => ?_⟩
    · rw [hrows, if_neg (by simp [mem_rowsBelow]), rowAt_modifyRow_same hrow]
    · rw [hrows, rowAt_modifyRow_other _ _ hd, raisedRow_of_sameButRows r d hclose hclean]
      rcases hrd : rowAt p d with _ | rd
      · simp
      · have hlt : d < (modifyRow r closedRecord p).rsq.rows.length := by
          rw [hclose.2]
          exact (List.getElem?_eq_some_iff.mp hrd).1
        simp [mem_rowsBelow, hlt, hmoved]
  · rw [if_neg hmoved]
    exact ⟨hclose, rowAt_modifyRow_same hrow, fun d hd => by simp [rowAt_modifyRow_other _ _ hd, hmoved]⟩

/-! ### The commands (R66, R79) -/

theorem exec_settleExpiry (r : Nat) (s : State) :
    exec (.settleExpiry r) s =
      .next { s with part := if settleDue s.part r then finishEvent (closeRow r s.part) else s.part } := rfl

theorem exec_holdUntilReached (r : Nat) (s : State) :
    exec (.holdUntilReached r) s =
      .next { s with part := if atHoldUntil s.part r then finishEvent (runArbiter 24 s.part) else s.part } := rfl

/-- Settles O15: the delay by `propagationDelay_le_iff`, its speed by the clamps; when a row closes, each row below
takes its own raise, which bears on no other row's. (The model's function has the plain name.) -/
theorem propagationDelay_holds : Obligations.PropagationDelay := by
  refine ⟨fun L v a hL hL' hv hv' ha ha' => ?delay, by decide, by decide, by decide, fun w => ?speed,
    fun _ => deliveredField_advection_bounds, fun p r row hclean hrow => ?closing,
    fun s r => ⟨fun hdue => ?settle, fun hat => ?reached⟩⟩
  case delay =>
    have hpos : 0 < v * a := Nat.mul_pos (by omega) (by omega)
    exact ⟨(propagationDelay_le_iff hpos).mp (Nat.le_refl _), fun n => (propagationDelay_le_iff hpos).mpr,
      propagationDelay_range hL hL' hv hv' ha ha'⟩
  case speed =>
    obtain ⟨hlo, hhi⟩ := wakeSpeed_bounds w
    refine ⟨hlo, hhi, wakeSpeed_of_none, fun v hv => ?_⟩
    rw [wakeSpeed_of_some hv]
    omega
  case closing =>
    obtain ⟨⟨hsame, hlength⟩, hself, hothers⟩ := closeRow_rows hclean hrow
    refine ⟨hsame, hlength, hself, fun hunmoved d hd => by simp [hothers d hd, hunmoved],
      fun hmoved d rd fs hd hrd hfs => ⟨?kept, fun hbelow hstate f hf => ?raised⟩⟩
    all_goals rw [hothers d hd, hrd]
    case kept =>
      rintro (habove | hfenced | hunlisted)
      · simp [Nat.lt_asymm habove]
      · simp [raisedRow_fenced r d p hfenced]
      · simp [raisedRow_unlisted rd hfs hunlisted]
    case raised => rw [if_pos ⟨hmoved, hbelow⟩, Option.map_some, raisedRow_listed hfs hstate hf, wakeArrival]
  case settle => rw [exec_settleExpiry, if_pos hdue]
  case reached => rw [exec_holdUntilReached, if_pos hat]

end Sys2Proof.Machine
end

section
/-! PROOFS. CLEAR (R198): its two kinds and their refusals, with the return of a SUSPECT turbine to NORMAL (R116). -/

namespace Sys2Proof.Machine

/-! ### The turbine table -/

section
variable (p : Part) (t : Nat) (r : TurbineRec) (g : TurbineRec → TurbineRec)

@[simp] theorem turbineRec_setTurbine_same : turbineRec (setTurbine t r p) t = r :=
  Store.get_put_same ..

theorem turbineRec_setTurbine_other {u : Nat} (h : u ≠ t) :
    turbineRec (setTurbine t r p) u = turbineRec p u :=
  Store.get_put_other _ _ _ h

@[simp] theorem turbineRec_modifyTurbine_same : turbineRec (modifyTurbine t g p) t = g (turbineRec p t) :=
  turbineRec_setTurbine_same ..

theorem turbineRec_modifyTurbine_other {u : Nat} (h : u ≠ t) :
    turbineRec (modifyTurbine t g p) u = turbineRec p u :=
  turbineRec_setTurbine_other _ _ _ h

/-- An answer waits in MA, away from SE's table. -/
@[simp] theorem turbineRec_answerOk (src : Addr) (tag : BitVec 16) (values : List (List Byte)) :
    turbineRec (answerOk src tag values p) t = turbineRec p t := rfl

end

/-! ### Requests at the C port (R174, R184) -/

theorem countReceived_c (p : Part) : countReceived .c p = { p with ti := countedIn .c p.ti } := rfl

theorem takeRequest_of_room (g : Part → Part) {p : Part} (h : p.ma.answers.length < 4) : takeRequest g p = g p :=
  if_pos h

theorem needBytes_of_le {n : Nat} (src : Addr) (tag : BitVec 16) {fields : List Byte} (g : Part → Part) (p : Part)
    (h : n ≤ fields.length) : needBytes n src tag fields g p = g p :=
  if_neg (Nat.not_lt.mpr h)

/-- A request with its `n` bytes and a free place for its answer runs on the part with the frame counted. -/
theorem requestAtC_needBytes {n : Nat} (src : Addr) (tag : BitVec 16) {fields : List Byte} (g : Part → Part)
    {p : Part} (hroom : p.ma.answers.length < 4) (hlen : n ≤ fields.length) :
    requestAtC (needBytes n src tag fields g) p = arrival (g { p with ti := countedIn .c p.ti }) := by
  rw [requestAtC, countReceived_c, takeRequest_of_room _ (by exact hroom), needBytes_of_le src tag g _ hlen]

/-! ### The two kinds of CLEAR (R198, R116) -/

section
variable (src : Addr) (tag : BitVec 16) {fields : List Byte} (p : Part)

theorem clearRequest_flags (hkind : byteAt fields 0 = 0#8) :
    clearRequest src tag fields p = answerOk src tag [] (clearFlags p) := by
  simp [clearRequest, hkind]

/-- The turbine number of kind 1 is checked before the condition it has. -/
theorem clearRequest_turbine (hkind : byteAt fields 0 = 1#8) :
    clearRequest src tag fields p =
      if (byteAt fields 1).toNat < 1 ∨ 192 < (byteAt fields 1).toNat then answerRefused src tag Why.range p
      else if condOf p (byteAt fields 1).toNat = .suspect then
        answerOk src tag [] (clearSuspect (byteAt fields 1).toNat p)
      else answerRefused src tag Why.notSuspect p := by
  simp [clearRequest, hkind]

/-- R198: the flags and the marks go, and with them nothing else: the dropped-alert counter and the alert sequence
stay. -/
theorem answerOk_clearFlags :
    answerOk src tag [] (clearFlags p) =
      { p with
        rau := { p.rau with records := p.rau.records.map fun u => { u with overrunAlerted := false } }
        ma := answered (buildAnswer src tag 0 0 []) { p.ma with sticky := 0 } } := rfl

theorem answerRefused_eq (reason : Nat) :
    answerRefused src tag reason p = { p with ma := answered (buildAnswer src tag 2 reason []) p.ma } := rfl

/-- R116: the turbine's record is written, and nothing but SE's table of them. -/
theorem answerOk_clearSuspect (t : Nat) :
    answerOk src tag [] (clearSuspect t p) =
      { p with
        se := { p.se with turbines := (answerOk src tag [] (clearSuspect t p)).se.turbines }
        ma := answered (buildAnswer src tag 0 0 []) p.ma } := rfl

theorem turbineRec_clearSuspect_same (t : Nat) :
    turbineRec (clearSuspect t p) t = { turbineRec p t with cond := .normal, misses := 0, abandoned := [] } :=
  turbineRec_modifyTurbine_same ..

theorem turbineRec_clearSuspect_other {t u : Nat} (h : u ≠ t) : turbineRec (clearSuspect t p) u = turbineRec p u :=
  turbineRec_modifyTurbine_other _ _ _ h

variable {s : State}

theorem exec_clearStickyFlags (hroom : s.part.ma.answers.length < 4) (hlen : 2 ≤ fields.length) :
    exec (.clearStickyFlags src tag fields) s =
      .next { s with part := arrival (clearRequest src tag fields { s.part with ti := countedIn .c s.part.ti }) } := by
  rw [← requestAtC_needBytes src tag _ hroom hlen]
  rfl

theorem exec_clearSuspectCondition (hroom : s.part.ma.answers.length < 4) (hlen : 2 ≤ fields.length) :
    exec (.clearSuspectCondition src tag fields) s =
      .next { s with part := arrival (clearRequest src tag fields { s.part with ti := countedIn .c s.part.ti }) } := by
  rw [← requestAtC_needBytes src tag _ hroom hlen]
  rfl

end

/-- Settles O47: kind 0 by its one effect; kind 1 along its two tests, the turbine number and then SUSPECT. -/
theorem clear : Obligations.Clear := by
  intro src tag fields s hroom hlen ti t answer
  refine ⟨fun hflags => ?flags, fun hturbine => ?turbine⟩
  case flags =>
    rw [exec_clearStickyFlags src tag hroom hlen, clearRequest_flags src tag _ hflags, answerOk_clearFlags]
  case turbine =>
    rw [exec_clearSuspectCondition src tag hroom hlen, clearRequest_turbine src tag _ hturbine]
    refine ⟨fun hrange => ?range, fun hlo hhi hcond => ?notSuspect, fun hlo hhi hcond => ?suspect⟩
    case range => rw [if_pos hrange, answerRefused_eq, Why.range]
    all_goals rw [if_neg (by omega)]
    case notSuspect => rw [if_neg (by exact hcond), answerRefused_eq, Why.notSuspect]
    case suspect =>
      rw [if_pos (by exact hcond)]
      refine ⟨_, rfl, answerOk_clearSuspect src tag _ t, ?_, fun u hu => ?_⟩
      · rw [turbineRec_answerOk, turbineRec_clearSuspect_same]; rfl
      · rw [turbineRec_answerOk, turbineRec_clearSuspect_other _ hu]; rfl

end Sys2Proof.Machine
end
